-- ==== Sys2Proof/Word.lean ====
section
/-! DEFINITION. The words of SMD: the widths R16 and R6 fix, and storing an exact number in one of them. -/

namespace Sys2Proof

/-- One byte of the buffer, and of the 8-bit registers (R16, R44). -/
abbrev Byte := BitVec 8

/-- A byte offset as a register holds it: ADDR_W = 32 bits (R6, R16). -/
abbrev Offset := BitVec 32

/-- A map index as a register holds it: IDX_W = 16 bits (R6, R16). -/
abbrev MapIndex := BitVec 16

/-- `BITS_LEFT` and `PENDING` are 4 bits wide (R16). -/
abbrev Count := BitVec 4

/-- One of the four words READ_STATUS answers (R31). -/
abbrev StatusWord := BitVec 32

/-- NO_MAP = 0xFFFF, what `MAP_IDX` and `ERR_MAP` hold when there is no map (R16, R26). -/
def noMap : MapIndex := 0xFFFF#16

/-- An exact offset stored in a 32-bit register. R7 and R16: under `Params.wf` no offset SMD stores
exceeds the width, so nothing is lost. -/
def offsetOf (n : Nat) : Offset := BitVec.ofNat 32 n

/-- An exact count stored in a 4-bit register; R16 bounds the counts SMD stores by 8. -/
def countOf (n : Nat) : Count := BitVec.ofNat 4 n

/-- An exact loop counter stored in an 8-bit register (`ROW`, `COL`, R16). -/
def byteOf (n : Nat) : Byte := BitVec.ofNat 8 n

end Sys2Proof
end

