-- ==== Sys2Proof/Config.lean ====
section
/-! DEFINITION. The configuration parameters of R6. They are data that State carries and no command writes
(R33), so that every statement about all states is a statement for every value of them (92 D7). -/

namespace Sys2Proof

/-- The parameters of R6 that are numbers of the layout and of the bounds. `RUN_MAX`, `ADDR_W` and `IDX_W` are
widths of the encodings and of the registers; `N_INST` is the number of SMDs that State holds. -/
structure Params where
  /-- `BUF_LEN`: byte length of the buffer. -/
  bufLen : Nat
  /-- `SEGMENT_BASE`: container segment base, the base that the defaults of the next two are counted from (R49). -/
  segmentBase : Nat
  /-- `TABLE_BASE`: absolute offset of the offset table. -/
  tableBase : Nat
  /-- `DATA_BASE`: absolute base that table values are added to (90 C2: the segment base counted once). -/
  dataBase : Nat
  /-- `MAP_COUNT`: number of maps, and of table entries. -/
  mapCount : Nat
  /-- `MAX_X`: exclusive upper bound on size_x and man_x. -/
  maxX : Nat
  /-- `MAX_Y`: exclusive upper bound on size_y and man_y. -/
  maxY : Nat
  deriving DecidableEq, Repr

/-- The values R6 and R49 give, the default of every parameter. -/
def Params.source : Params where
  bufLen := 10632
  segmentBase := 0x1390
  tableBase := 0x1390 + 0x1480
  dataBase := 0x1390 + 0x00FC
  mapCount := 60
  maxX := 40
  maxY := 25

/-- GRID_CAP, the capacity of the grid store: the cells of the largest map that passes the dimension check
(R6, R27; 39 × 24 = 936 for the source's values; DEDUCED for others, notes/assumptions/4.md). -/
def Params.gridCap (p : Params) : Nat := (p.maxX - 1) * (p.maxY - 1)

/-- ADDR_W = 32 bits hold every offset SMD computes without wrap-around (R7, 92 D3). A configuration outside this
is none of an SMD. -/
abbrev Params.wf (p : Params) : Prop :=
  p.bufLen < 2 ^ 32 ∧ p.tableBase + 2 * 0xFFFF + 1 < 2 ^ 32 ∧ p.dataBase + 0xFFFF + 1 < 2 ^ 32

end Sys2Proof
end

