-- ==== Sys2Proof/Machine/State.lean ====
section
/-! DEFINITION. The state of the machine as plain data: the configuration (R33), the commands the host has issued, and
the SMD instances that share the one buffer, each with every register of R16. -/

namespace Sys2Proof.Machine

/-- The five cells (R11). Their 3-bit codes (R25) are `Cell.code`; the codes 5 and 6 are not there (DEDUCED,
notes/assumptions/13.md). -/
inductive Cell where
  | empty
  | wall
  | barrel
  | barrelSlot
  | barrelPlaced
  deriving DecidableEq, Repr

/-- The values of `ERR_KIND` that are ever written (R140). Their 3-bit codes are `ErrKind.code`. -/
inductive ErrKind where
  | none
  | bufferExhausted
  | indexOutOfRange
  | invalidDimensions
  | invalidPlayerPosition
  | invalidPlayerPlacement
  deriving DecidableEq, Repr

/-- The reasons of a REFUSED response (R151). -/
inductive Reason where
  /-- NEXT_BIT, NEXT_CELL or READ_BYTE with `READY = 0` (R80). -/
  | notInitialised
  /-- READ_MAP with `MAP_VALID = 0` (R133). -/
  | noMap
  /-- `CMD` in 0x9..0xF (R134). -/
  | reservedOpcode
  /-- RESOLVE or DECODE_MAP with `ARG[31:16] ≠ 0` (R134). -/
  | indexTooWide
  deriving DecidableEq, Repr

/-- The data of an OK response (R70, R71). -/
inductive Data where
  | none
  | bit (b : Bool)
  | cell (c : Cell)
  | byte (b : Byte)
  | offset (a : Offset)
  | status (w0 w1 w2 w3 : StatusWord)
  | map (sizeX sizeY : Byte) (cells : List Cell) (manX manY : Byte)
  deriving DecidableEq, Repr

/-- What a command answers (R71). -/
inductive Response where
  | ok (d : Data)
  | err (kind : ErrKind) (map : MapIndex) (offset : Offset)
  | refused (why : Reason)
  deriving DecidableEq, Repr

/-- How far the token being read has come (R59, R90): the model's own field, `idle` at every boundary between commands,
since NEXT_CELL is one step. `counter` waits for a counter prefix, `code n` for the cell code after a counter of run
length n. DEDUCED from R2 and R90 (notes/assumptions/9.md). -/
inductive Token where
  | idle
  | counter
  | code (n : Nat)
  deriving DecidableEq, Repr

/-- One SMD instance: the registers of R16, and three fields of the model's own. -/
structure Smd where
  /-- `BYTE_PTR` (R18). -/
  bytePtr : Offset
  /-- `BITS_LEFT` (R19). -/
  bitsLeft : Count
  /-- `CUR_BYTE` (R20); holds no value while `BITS_LEFT = 0`, and no rule reads it then. -/
  curByte : Byte
  /-- `PENDING` (R21). -/
  pending : Count
  /-- `CACHED` (R22); `none` is the code NONE. -/
  cached : Option Cell
  /-- `READY` (R23). -/
  ready : Bool
  /-- `MAP_IDX` (R26). -/
  mapIdx : MapIndex
  /-- `SIZE_X` (R26). -/
  sizeX : Byte
  /-- `SIZE_Y` (R26). -/
  sizeY : Byte
  /-- `MAN_X` (R26). -/
  manX : Byte
  /-- `MAN_Y` (R26). -/
  manY : Byte
  /-- `ROW` (R26). -/
  row : Byte
  /-- `COL` (R26). -/
  col : Byte
  /-- `GRID[0..GRID_CAP−1]` (R27). -/
  grid : List Cell
  /-- `MAP_VALID` (R28). -/
  mapValid : Bool
  /-- `ERR` (R30). -/
  err : Bool
  /-- `ERR_KIND` (R30, R140). -/
  errKind : ErrKind
  /-- `ERR_MAP` (R30). -/
  errMap : MapIndex
  /-- `ERR_OFFSET` (R30). -/
  errOffset : Offset
  /-- The token being read: the model's own. -/
  token : Token
  /-- The response to the last command (R71), none before the first: the model's own, DESIGN CHOICE
(notes/assumptions/10.md). -/
  response : Option Response
  /-- The refusal mark of R150, set by a REFUSED command for the rest of the run (DEDUCED, notes/assumptions/3.md). -/
  refusalMark : Bool
  deriving DecidableEq, Repr

/-- The buffer's bytes, as (offset, byte) pairs in the canonical form of `Memory.wf`. -/
abbrev Memory := List Host.Cell

/-- The configuration: the parameters and the buffer (R33). No command writes it. DEDUCED: State carries it, since the
step has no other argument (notes/assumptions/4.md). -/
structure Env where
  cfg : Params
  buf : Memory
  deriving DecidableEq, Repr

/-- A command the host has issued: the number of the SMD it goes to, `CMD` and `ARG` (R70, R156). DESIGN CHOICE: a queue
of them stands for the host (notes/assumptions/7.md). -/
structure Issued where
  smdNo : Nat
  cmd : BitVec 4
  arg : BitVec 32
  deriving DecidableEq, Repr

/-- The whole machine. The N_INST instances are `before ++ smd :: after`, numbered from 0; `smd` is the one that took the
last step. DESIGN CHOICE: any number of them, one at reset (notes/assumptions/7.md). -/
structure State where
  env : Env
  /-- The commands the host has issued and SMD has not yet taken, oldest first (R53, R171). -/
  host : List Issued
  before : List Smd
  smd : Smd
  after : List Smd
  deriving DecidableEq, Repr

/-- Why the machine stops. -/
inductive Fault where
  /-- A cell code with no counter before it: R59 gives a cell code a meaning only after its counter. Raised by the five
  cell-code symbols in a state whose token is not `code n`, which no run reaches.
  Safe; DESIGN CHOICE (notes/assumptions/6.md). -/
  | cellCodeWithoutCounter
  /-- A command for an SMD that does not exist. Raised by `step`; no host can issue one (R156, R163). Safe;
  DESIGN CHOICE (notes/assumptions/5.md). -/
  | noSuchSmd
  /-- A `GRID` entry that does not exist or holds no value (R27, R35). Raised by a grid read or write of DECODE_MAP and
  by READ_MAP, in states whose grid store is too short, which no run reaches. Safe; DEDUCED (notes/assumptions/14.md). -/
  | gridEntryAbsent
  /-- A register holds a value that is never written: `BITS_LEFT` or `PENDING` over 8, or `PENDING > 0` with
  `CACHED = NONE` (R24, R72, 93 I16). Raised by FetchBit and by a continuation, in states no run reaches. Safe; DEDUCED
  (notes/assumptions/13.md). -/
  | reservedValue
  deriving DecidableEq, Repr

/-- Why the model has no meaning for an instruction. -/
inductive Refusal where
  /-- Raised by an arm of `exec` whose instruction has no meaning yet (none now). Safe. -/
  | notModelled (mnemonic : String)
  deriving DecidableEq, Repr

/-- An instance at power-on (R36, R160). The spec gives no value for `CUR_BYTE`, `SIZE_X`, `SIZE_Y`, `MAN_X`, `MAN_Y`, `ROW`,
`COL` and `GRID`: DESIGN CHOICE zero and Empty (notes/assumptions/1.md). -/
def Smd.powerOn (p : Params) : Smd where
  bytePtr := 0#32
  bitsLeft := 0#4
  curByte := 0#8
  pending := 0#4
  cached := none
  ready := false
  mapIdx := noMap
  sizeX := 0#8
  sizeY := 0#8
  manX := 0#8
  manY := 0#8
  row := 0#8
  col := 0#8
  grid := List.replicate p.gridCap .empty
  mapValid := false
  err := false
  errKind := .none
  errMap := noMap
  errOffset := 0#32
  token := .idle
  response := none
  refusalMark := false

/-- The machine that a host has configured (R162): its parameters and buffer, one SMD and `extra` more, all at power-on,
and the commands it will issue. -/
def State.powerOn (env : Env) (extra : Nat) (host : List Issued) : State where
  env := env
  host := host
  before := []
  smd := Smd.powerOn env.cfg
  after := List.replicate extra (Smd.powerOn env.cfg)

/-- The machine after reset: the source's parameters (R6), nothing listed in the buffer, no command issued, one SMD. -/
def State.reset : State := State.powerOn { cfg := Params.source, buf := [] } 0 []

end Sys2Proof.Machine
end

