-- ==== Sys2Proof/Machine/Ops.lean ====
section
/-! DEFINITION. The operations the meanings share: the buffer, raising an error and leaving the error state, the bit
reader's FetchBit, the grid store, and which SMD takes the next command. -/

namespace Sys2Proof.Machine

/-! ### The buffer's bytes -/

/-- What a byte that nothing has placed in the buffer reads as: 0x00, as 95 section 1 takes every byte a vector does not
list. DESIGN CHOICE (notes/assumptions/2.md). -/
def Memory.unlisted : Byte := 0x00#8

/-- The canonical form from the address `lo` on: addresses strictly rising, no entry equal to `Memory.unlisted`. -/
def Memory.wfFrom : Nat → Memory → Bool
  | _, [] => true
  | lo, (a, b) :: m => decide (lo ≤ a) && (b != Memory.unlisted) && Memory.wfFrom (a + 1) m

/-- The canonical form of the buffer. -/
def Memory.wf (m : Memory) : Bool := Memory.wfFrom 0 m

/-- The byte at an offset. -/
def Memory.read : Memory → Nat → Byte
  | [], _ => Memory.unlisted
  | (a, b) :: m, k => if a = k then b else Memory.read m k

/-- A byte placed at an offset, before the buffer is handed to SMD: no command does this (R43, R56). -/
def Memory.write : Memory → Nat → Byte → Memory
  | [], k, v => if v = Memory.unlisted then [] else [(k, v)]
  | (a, b) :: m, k, v =>
    if a < k then (a, b) :: Memory.write m k v
    else if a = k then (if v = Memory.unlisted then m else (k, v) :: m)
    else (if v = Memory.unlisted then (a, b) :: m else (k, v) :: (a, b) :: m)

/-! ### The outcome of a stretch of a command's pseudocode -/

/-- What a stretch of pseudocode gives (R10): a value and the registers, or a raise with its offset and the registers
as the writes before it left them (R142), or a stop of the model. Offsets are exact (R9). -/
inductive Res (α : Type) where
  | ok (a : α) (r : Smd)
  | raised (kind : ErrKind) (offset : Nat) (r : Smd)
  | fault (f : Fault)

/-- One stretch after another: a raise ends the command (R10). -/
def Res.bind {α β : Type} (x : Res α) (f : α → Smd → Res β) : Res β :=
  match x with
  | .ok a r => f a r
  | .raised k o r => .raised k o r
  | .fault e => .fault e

/-- A stretch whose value is a response's data. -/
def Res.map {α β : Type} (f : α → β) (x : Res α) : Res β := x.bind fun a r => .ok (f a) r

/-! ### Reading the buffer -/

/-- `MemRead(a, 1)` (R42): bounds-checked, no side effect. -/
def memRead (e : Env) (a : Nat) (r : Smd) : Res Byte :=
  if e.cfg.bufLen ≤ a then .raised .bufferExhausted a r else .ok (e.buf.read a) r

/-- `MemRead16LE(a)` (R45): the low byte first, at the lower offset. -/
def memRead16LE (e : Env) (a : Nat) (r : Smd) : Res Nat :=
  (memRead e a r).bind fun lo r =>
  (memRead e (a + 1) r).bind fun hi r =>
  .ok (lo.toNat + 256 * hi.toNat) r

/-! ### The bit reader -/

/-- The latch of FetchBit (R81): a byte is loaded when its first bit is needed. -/
def latch (e : Env) (r : Smd) : Res Unit :=
  if r.bitsLeft = 0#4 then
    (memRead e r.bytePtr.toNat r).bind fun b r =>
    .ok () { r with curByte := b, bytePtr := r.bytePtr + 1#32, bitsLeft := 8#4 }
  else .ok () r

/-- The delivery of FetchBit (R81), most significant bit first. `BITS_LEFT` over 8 names no bit of `CUR_BYTE` and is
never written (R24, 93 I16). -/
def deliver (r : Smd) : Res Bool :=
  if r.bitsLeft ≤ 8#4 then
    .ok (r.curByte.getLsbD (r.bitsLeft - 1#4).toNat) { r with bitsLeft := r.bitsLeft - 1#4 }
  else .fault .reservedValue

/-- `FetchBit()` (R81). -/
def fetchBit (e : Env) (r : Smd) : Res Bool := (latch e r).bind fun _ r => deliver r

/-- `k` FetchBits whose bits are already known. -/
def skipBits (e : Env) : Nat → Smd → Res Unit
  | 0, r => .ok () r
  | k + 1, r => (fetchBit e r).bind fun _ r => skipBits e k r

/-- The next bits of the stream in read order, at most `k`: fewer where the buffer ends (R86). -/
def peekBits (e : Env) : Nat → Smd → List Bool
  | 0, _ => []
  | k + 1, r =>
    match fetchBit e r with
    | .ok b r' => b :: peekBits e k r'
    | .raised _ _ _ => []
    | .fault _ => []

/-- The core at the start of a stream (R36, R82, R114): nothing latched, no run, `READY`. `CUR_BYTE` keeps a byte that no
rule reads (DEDUCED, notes/assumptions/15.md). -/
def startCore (start : Offset) (r : Smd) : Smd :=
  { r with bytePtr := start, bitsLeft := 0#4, pending := 0#4, cached := none, ready := true, token := .idle }

/-! ### The grid store -/

/-- `GRID[k] <- c` (R27). -/
def gridWrite (k : Nat) (c : Cell) (r : Smd) : Res Unit :=
  if k < r.grid.length then .ok () { r with grid := r.grid.set k c } else .fault .gridEntryAbsent

/-- `GRID[k]`, an entry of the current map: an entry at or above `SIZE_X × SIZE_Y` holds no value, and a read of it
stops the model (R27, R35). -/
def gridRead (k : Nat) (r : Smd) : Res Cell :=
  if k < r.sizeX.toNat * r.sizeY.toNat then
    match r.grid[k]? with
    | some c => .ok c r
    | none => .fault .gridEntryAbsent
  else .fault .gridEntryAbsent

/-- `[GRID[0], ..., GRID[SIZE_X × SIZE_Y − 1]]` (R28, R133). -/
def gridCells (r : Smd) : Res (List Cell) :=
  if r.sizeX.toNat * r.sizeY.toNat ≤ r.grid.length then .ok (r.grid.take (r.sizeX.toNat * r.sizeY.toNat)) r
  else .fault .gridEntryAbsent

/-! ### Responses -/

/-- `return OK(d)` (R10, R71). -/
def respond (d : Data) (r : Smd) : Smd := { r with response := some (.ok d) }

/-- `REFUSED(why)` (R134, R150): no register changes, and the refusal mark is set. DEDUCED that the run goes on: a next
state (notes/assumptions/3.md). -/
def refuse (why : Reason) (r : Smd) : Smd := { r with response := some (.refused why), refusalMark := true }

/-- The recorded error, answered again (R80, R143). -/
def repeatError (r : Smd) : Smd := { r with response := some (.err r.errKind r.errMap r.errOffset) }

/-! ### Errors: raising one, and leaving the error state -/

/-- Which command raises (R141). -/
inductive Issuer where
  | primitive
  | resolve (i : MapIndex)
  | decodeMap
  deriving DecidableEq, Repr

/-- `EndDecode()` (R112, R123). -/
def endDecode (r : Smd) : Smd := { r with ready := false, mapIdx := noMap }

/-- The status registers a raise writes (R141). -/
def recordError (kind : ErrKind) (map : MapIndex) (a : Nat) (r : Smd) : Smd :=
  { r with err := true, errKind := kind, errMap := map, errOffset := offsetOf a,
           response := some (.err kind map (offsetOf a)) }

/-- `Raise(E, a)` (R141): RESOLVE writes no register; DECODE_MAP records its map and ends; a primitive records NO_MAP. -/
def raiseError (c : Issuer) (kind : ErrKind) (a : Nat) (r : Smd) : Smd :=
  match c with
  | .resolve i => { r with response := some (.err kind i (offsetOf a)) }
  | .decodeMap => endDecode (recordError kind r.mapIdx a r)
  | .primitive => recordError kind noMap a r

/-- `ClearStatus()` (R144): all there is to leaving the error state. -/
def clearStatus (r : Smd) : Smd :=
  { r with err := false, errKind := .none, errMap := noMap, errOffset := 0#32 }

/-! ### The state around the SMD that acts -/

/-- The state with the acting SMD's new registers. -/
def State.put (s : State) (r : Smd) : State := { s with smd := r }

/-- A command's end (R71): OK with its data, or the raise of R141. -/
def finish (c : Issuer) (s : State) (x : Res Data) : Host.Outcome State Fault Refusal :=
  match x with
  | .ok d r => .next (s.put (respond d r))
  | .raised kind a r => .next (s.put (raiseError c kind a r))
  | .fault f => .fault f

/-- Every SMD, by number (R39, R156). -/
def State.all (s : State) : List Smd := s.before ++ s.smd :: s.after

/-- The state in which the SMD of number `k` is the one that acts; none where there is no such SMD. -/
def State.focus (s : State) (k : Nat) : Option State :=
  match s.all.drop k with
  | [] => none
  | r :: rest => some { s with before := s.all.take k, smd := r, after := rest }

/-! ### Placing a symbol at the bit cursor, for `withFetchWord` -/

/-- A byte with bit `i` set to `v`. -/
def setBit (b : Byte) (i : Nat) (v : Bool) : Byte :=
  if v then b ||| (1#8 <<< i) else b &&& ~~~(1#8 <<< i)

/-- Bits laid into a byte in read order, the first at bit `hi − 1` (R46). -/
def overlay : Byte → Nat → List Bool → Byte
  | b, _, [] => b
  | b, hi, v :: vs => overlay (setBit b (hi - 1) v) (hi - 1) vs

/-- The state in whose stream these bits stand next: in what is left of the latched byte, then in the byte at
`BYTE_PTR` (R19). -/
def State.placeBits (s : State) (bits : List Bool) : State :=
  let k := s.smd.bitsLeft.toNat
  let ptr := s.smd.bytePtr.toNat
  let cur := overlay s.smd.curByte k (bits.take k)
  let buf := if k = 0 then s.env.buf else s.env.buf.write (ptr - 1) cur
  let buf := if bits.drop k = [] then buf else buf.write ptr (overlay (buf.read ptr) 8 (bits.drop k))
  { s with env := { s.env with buf := buf }, smd := { s.smd with curByte := cur } }

end Sys2Proof.Machine
end

