-- ==== Sys2Proof/Machine/Operands.lean ====
section
/-! DEFINITION. The operand forms: the map index of RESOLVE and DECODE_MAP, the counter prefix and the cell code of the
bitstream, and the token they make. -/

namespace Sys2Proof.Machine

/-- The map index in ARG[15:0], where ARG[31:16] = 0; otherwise the command is refused (R72, R105, R112). -/
def mapIndexOperand (arg : BitVec 32) : Option MapIndex :=
  if arg.extractLsb' 16 16 = 0#16 then some (arg.extractLsb' 0 16) else none

/-- `ReadCounter()` (R91): the run length, 1 to 9. -/
def readCounter (e : Env) (r : Smd) : Res Nat :=
  (fetchBit e r).bind fun b r =>
  if b = false then .ok 1 r
  else
    (fetchBit e r).bind fun d3 r =>
    (fetchBit e r).bind fun d2 r =>
    (fetchBit e r).bind fun d1 r =>
    .ok (2 + 4 * d3.toNat + 2 * d2.toNat + d1.toNat) r

/-- `ReadCellCode()` (R94). Every path is one of the five cells. -/
def readCellCode (e : Env) (r : Smd) : Res Cell :=
  (fetchBit e r).bind fun a r =>
  (fetchBit e r).bind fun b r =>
  match a, b with
  | false, false => .ok .empty r
  | false, true => .ok .wall r
  | true, false => .ok .barrel r
  | true, true =>
    (fetchBit e r).bind fun c r =>
    if c = false then .ok .barrelSlot r else .ok .barrelPlaced r

/-- A fresh token `n×c` is complete (R90, R92): `PENDING <- n − 1` and `CACHED <- c`, together (92 D30). -/
def storeToken (n : Nat) (c : Cell) (r : Smd) : Smd := { r with pending := countOf (n - 1), cached := some c }

/-- A continuation (R90, R92): no bit is read. `PENDING` over 8, or a run of no cell, is never written (R24, 93 I16). -/
def continueRun (r : Smd) : Res Cell :=
  match r.cached with
  | some c => if r.pending ≤ 8#4 then .ok c { r with pending := r.pending - 1#4 } else .fault .reservedValue
  | none => .fault .reservedValue

/-- A fresh token (R90): its counter, then its cell code. -/
def freshToken (e : Env) (r : Smd) : Res Cell :=
  (readCounter e r).bind fun n r =>
  (readCellCode e r).bind fun c r =>
  .ok c (storeToken n c r)

/-- `CellStep()` (R112), which is NEXT_CELL without its gate (R90). -/
def cellStep (e : Env) (r : Smd) : Res Cell :=
  if 0#4 < r.pending then continueRun r else freshToken e r

end Sys2Proof.Machine
end

