-- ==== Sys2Proof/Machine/Flags.lean ====
section
/-! DEFINITION. The flags READY and ERR as the gate reads them (R80, R32), and the status words with the codes their
fields hold (R31). -/

namespace Sys2Proof.Machine

/-- `Gate()` and then the primitive's own work (R80). -/
def gated (s : State) (body : Res Data) : Host.Outcome State Fault Refusal :=
  if s.smd.ready = false then .next (s.put (refuse .notInitialised s.smd))
  else if s.smd.err = true then .next (s.put (repeatError s.smd))
  else finish .primitive s body

/-- The 3-bit register code of a cell (R25). -/
def Cell.code : Cell → BitVec 3
  | .empty => 0#3
  | .wall => 1#3
  | .barrel => 2#3
  | .barrelSlot => 3#3
  | .barrelPlaced => 4#3

/-- The 3 bits of `CACHED` (R22, R25): NONE is 7. -/
def cachedCode : Option Cell → BitVec 3
  | none => 7#3
  | some c => c.code

/-- The 3 bits of `ERR_KIND` (R140). -/
def ErrKind.code : ErrKind → BitVec 3
  | .none => 0#3
  | .bufferExhausted => 1#3
  | .indexOutOfRange => 2#3
  | .invalidDimensions => 3#3
  | .invalidPlayerPosition => 4#3
  | .invalidPlayerPlacement => 5#3

/-- W0 of READ_STATUS (R31, R132): `CACHED ‖ PENDING ‖ BITS_LEFT ‖ MAP_VALID ‖ READY ‖ ERR_KIND ‖ ERR`, bits 16..0, the
others 0. -/
def statusW0 (r : Smd) : StatusWord :=
  (cachedCode r.cached ++ r.pending ++ r.bitsLeft ++ BitVec.ofBool r.mapValid ++ BitVec.ofBool r.ready
    ++ r.errKind.code ++ BitVec.ofBool r.err).setWidth 32

/-- W1 of READ_STATUS (R31, R132): `ERR_MAP` in bits 15..0. -/
def statusW1 (r : Smd) : StatusWord := r.errMap.setWidth 32

/-- The four words of READ_STATUS (R31, R132); W2 is `ERR_OFFSET` and W3 is `BYTE_PTR`. -/
def statusWords (r : Smd) : Data := .status (statusW0 r) (statusW1 r) r.errOffset r.bytePtr

end Sys2Proof.Machine
end

