-- ==== Sys2Proof/Machine/BitReader.lean ====
section
/-! DEFINITION. The bit reader's commands INIT, NEXT_BIT and READ_BYTE (40_bitreader.md). -/

namespace Sys2Proof.Machine

/-- INIT (R82): the status is cleared and a stream starts at the byte `start`, which is not checked. -/
def execInit (start : BitVec 32) (s : State) : Host.Outcome State Fault Refusal :=
  .next (s.put (respond .none (startCore start (clearStatus s.smd))))

/-- NEXT_BIT (R83). -/
def execNextBit (_arg : BitVec 32) (s : State) : Host.Outcome State Fault Refusal :=
  gated s ((fetchBit s.env s.smd).map .bit)

/-- READ_BYTE's own work (R84): the byte at `BYTE_PTR`; the unread bits of a latched byte are discarded. -/
def readByteBody (e : Env) (r : Smd) : Res Byte :=
  (memRead e r.bytePtr.toNat r).bind fun b r =>
  .ok b { r with bytePtr := r.bytePtr + 1#32, bitsLeft := 0#4 }

/-- READ_BYTE (R84). -/
def execReadByte (_arg : BitVec 32) (s : State) : Host.Outcome State Fault Refusal :=
  gated s ((readByteBody s.env s.smd).map .byte)

end Sys2Proof.Machine
end

