-- ==== Sys2Proof/Machine/Control.lean ====
section
/-! DEFINITION. The control commands RESET, READ_STATUS and READ_MAP, and the reserved opcodes (44_control.md). -/

namespace Sys2Proof.Machine

/-- RESET (R131): the instance is as at power-on (R160). The refusal mark is no register and stays
(R150; DEDUCED, notes/assumptions/3.md). -/
def execReset (_arg : BitVec 32) (s : State) : Host.Outcome State Fault Refusal :=
  .next (s.put (respond .none { Smd.powerOn s.env.cfg with refusalMark := s.smd.refusalMark }))

/-- READ_STATUS (R132): writes nothing, whatever `READY` and `ERR` are. -/
def execReadStatus (_arg : BitVec 32) (s : State) : Host.Outcome State Fault Refusal :=
  .next (s.put (respond (statusWords s.smd) s.smd))

/-- READ_MAP (R133): the sealed Map, or REFUSED(NoMap). -/
def execReadMap (_arg : BitVec 32) (s : State) : Host.Outcome State Fault Refusal :=
  if s.smd.mapValid = false then .next (s.put (refuse .noMap s.smd))
  else
    finish .primitive s
      ((gridCells s.smd).map fun cells => .map s.smd.sizeX s.smd.sizeY cells s.smd.manX s.smd.manY)

/-- CMD 0x9 (R134): REFUSED(ReservedOpcode), no register changes. -/
def execReserved9 (_arg : BitVec 32) (s : State) : Host.Outcome State Fault Refusal :=
  .next (s.put (refuse .reservedOpcode s.smd))

/-- CMD 0xA (R134): REFUSED(ReservedOpcode), no register changes. -/
def execReservedA (_arg : BitVec 32) (s : State) : Host.Outcome State Fault Refusal :=
  .next (s.put (refuse .reservedOpcode s.smd))

/-- CMD 0xB (R134): REFUSED(ReservedOpcode), no register changes. -/
def execReservedB (_arg : BitVec 32) (s : State) : Host.Outcome State Fault Refusal :=
  .next (s.put (refuse .reservedOpcode s.smd))

/-- CMD 0xC (R134): REFUSED(ReservedOpcode), no register changes. -/
def execReservedC (_arg : BitVec 32) (s : State) : Host.Outcome State Fault Refusal :=
  .next (s.put (refuse .reservedOpcode s.smd))

/-- CMD 0xD (R134): REFUSED(ReservedOpcode), no register changes. -/
def execReservedD (_arg : BitVec 32) (s : State) : Host.Outcome State Fault Refusal :=
  .next (s.put (refuse .reservedOpcode s.smd))

/-- CMD 0xE (R134): REFUSED(ReservedOpcode), no register changes. -/
def execReservedE (_arg : BitVec 32) (s : State) : Host.Outcome State Fault Refusal :=
  .next (s.put (refuse .reservedOpcode s.smd))

/-- CMD 0xF (R134): REFUSED(ReservedOpcode), no register changes. -/
def execReservedF (_arg : BitVec 32) (s : State) : Host.Outcome State Fault Refusal :=
  .next (s.put (refuse .reservedOpcode s.smd))

end Sys2Proof.Machine
end

