-- ==== Sys2Proof/Machine/OffsetResolver.lean ====
section
/-! DEFINITION. RESOLVE (42_offset_resolver.md). -/

namespace Sys2Proof.Machine

/-- `Resolve(i)` (R105): the index check first (R106), then the table entry, and the sum with the segment base counted
once (R69). -/
def resolveOffset (e : Env) (i : MapIndex) (r : Smd) : Res Nat :=
  if e.cfg.mapCount ≤ i.toNat then .raised .indexOutOfRange (e.cfg.tableBase + 2 * i.toNat) r
  else
    (memRead16LE e (e.cfg.tableBase + 2 * i.toNat) r).bind fun value r =>
    .ok (value + e.cfg.dataBase) r

/-- RESOLVE (R105): no register is written, on a raise either (R107). -/
def execResolve (arg : BitVec 32) (s : State) : Host.Outcome State Fault Refusal :=
  match mapIndexOperand arg with
  | none => .next (s.put (refuse .indexTooWide s.smd))
  | some i => finish (.resolve i) s ((resolveOffset s.env i s.smd).map fun a => .offset (offsetOf a))

end Sys2Proof.Machine
end

