-- ==== Sys2Proof/Machine/MapAssembler.lean ====
section
/-! DEFINITION. DECODE_MAP (43_map_assembler.md): the pseudocode of R112 in its own order, one definition a stretch. -/

namespace Sys2Proof.Machine

/-- What DECODE_MAP does before anything else (R112, R144). -/
def startDecode (i : MapIndex) (r : Smd) : Smd :=
  { clearStatus r with mapValid := false, mapIdx := i, token := .idle }

/-- Step 2 (R112, R113): the two prolog bytes, and the dimension check. -/
def readProlog (e : Env) (base : Nat) (r : Smd) : Res Unit :=
  (memRead e base r).bind fun x r =>
  (memRead e (base + 1) { r with sizeX := x }).bind fun y r =>
  let r := { r with sizeY := y }
  if e.cfg.maxX ≤ r.sizeX.toNat ∨ e.cfg.maxY ≤ r.sizeY.toNat then .raised .invalidDimensions base r
  else .ok () r

/-- The inner loop of step 4 (R112, R115, R116): `n` columns of row `row`, from column `col` on. DEDUCED: `COL` keeps its
last value (notes/assumptions/12.md). -/
def fillColumns (e : Env) (row : Nat) : (n col : Nat) → Smd → Res Unit
  | 0, _, r => .ok () r
  | n + 1, col, r =>
    (cellStep e { r with col := byteOf col }).bind fun c r =>
    (gridWrite (row * r.sizeX.toNat + col) c r).bind fun _ r =>
    fillColumns e row n (col + 1) r

/-- The outer loop of step 4 (R112, R115): `n` rows, from row `row` on. DEDUCED: `ROW` keeps its last value
(notes/assumptions/12.md). -/
def fillRows (e : Env) : (n row : Nat) → Smd → Res Unit
  | 0, _, r => .ok () r
  | n + 1, row, r =>
    (fillColumns e row r.sizeX.toNat 0 { r with row := byteOf row }).bind fun _ r =>
    fillRows e n (row + 1) r

/-- Step 5 (R112, R117): the two epilog bytes at `E = BYTE_PTR`, whatever bits are left; the result is E. -/
def readEpilog (e : Env) (r : Smd) : Res Nat :=
  let base := r.bytePtr.toNat
  (memRead e base r).bind fun x r =>
  (memRead e (base + 1) { r with manX := x }).bind fun y r =>
  .ok base { r with manY := y, bytePtr := offsetOf (base + 2), bitsLeft := 0#4 }

/-- Steps 5 to 7 (R118, R119): the player's position and placement, and the seal. -/
def placePlayer (e : Env) (base : Nat) (r : Smd) : Res Unit :=
  if e.cfg.maxX ≤ r.manX.toNat ∨ e.cfg.maxY ≤ r.manY.toNat ∨ r.sizeX.toNat ≤ r.manX.toNat ∨ r.sizeY.toNat ≤ r.manY.toNat then
    .raised .invalidPlayerPosition base r
  else
    (gridRead (r.manY.toNat * r.sizeX.toNat + r.manX.toNat) r).bind fun c r =>
    if c = .empty then .ok () { r with mapValid := true } else .raised .invalidPlayerPlacement base r

/-- The steps of R112 after its first three assignments. -/
def decodeBody (e : Env) (i : MapIndex) (r : Smd) : Res Data :=
  (resolveOffset e i r).bind fun base r =>
  (readProlog e base r).bind fun _ r =>
  (fillRows e r.sizeY.toNat 0 (startCore (offsetOf (base + 2)) r)).bind fun _ r =>
  (readEpilog e r).bind fun epilog r =>
  (placePlayer e epilog r).bind fun _ r =>
  .ok .none (endDecode r)

/-- DECODE_MAP (R112): one atomic step. -/
def execDecodeMap (arg : BitVec 32) (s : State) : Host.Outcome State Fault Refusal :=
  match mapIndexOperand arg with
  | none => .next (s.put (refuse .indexTooWide s.smd))
  | some i => finish .decodeMap s (decodeBody s.env i (startDecode i s.smd))

end Sys2Proof.Machine
end

