-- ==== Sys2Proof/Syntax.lean ====
section
/-! DEFINITION. The instructions: one constructor per row of spec/opcode_table.json. R2: SMD's instructions are of
two kinds, the commands a host issues and the symbols of the bitstream. -/

namespace Sys2Proof

/-- The 16 command opcodes (R70, R72), each with its 32-bit argument whole, also where the command ignores it; then
the nine counter prefixes (R60) and the five cell codes (R61) of the bitstream. -/
inductive Instr where
  /-- CMD 0x0 (R131); the argument is ignored. -/
  | reset (arg : BitVec 32)
  /-- CMD 0x1 (R82); the argument is the start offset. -/
  | init (start : BitVec 32)
  /-- CMD 0x2 (R83); the argument is ignored. -/
  | nextBit (arg : BitVec 32)
  /-- CMD 0x3 (R90); the argument is ignored. -/
  | nextCell (arg : BitVec 32)
  /-- CMD 0x4 (R84); the argument is ignored. -/
  | readByte (arg : BitVec 32)
  /-- CMD 0x5 (R105); ARG[15:0] is the map index, ARG[31:16] must be 0. -/
  | resolve (arg : BitVec 32)
  /-- CMD 0x6 (R112); ARG[15:0] is the map index, ARG[31:16] must be 0. -/
  | decodeMap (arg : BitVec 32)
  /-- CMD 0x7 (R132); the argument is ignored. -/
  | readStatus (arg : BitVec 32)
  /-- CMD 0x8 (R133); the argument is ignored. -/
  | readMap (arg : BitVec 32)
  /-- CMD 0x9, reserved (R134). -/
  | reserved9 (arg : BitVec 32)
  /-- CMD 0xA, reserved (R134). -/
  | reservedA (arg : BitVec 32)
  /-- CMD 0xB, reserved (R134). -/
  | reservedB (arg : BitVec 32)
  /-- CMD 0xC, reserved (R134). -/
  | reservedC (arg : BitVec 32)
  /-- CMD 0xD, reserved (R134). -/
  | reservedD (arg : BitVec 32)
  /-- CMD 0xE, reserved (R134). -/
  | reservedE (arg : BitVec 32)
  /-- CMD 0xF, reserved (R134). -/
  | reservedF (arg : BitVec 32)
  /-- Counter `0`: run length 1 (R60). -/
  | run1
  /-- Counter `1 0 0 0`: run length 2 (R60). -/
  | run2
  /-- Counter `1 0 0 1`: run length 3 (R60). -/
  | run3
  /-- Counter `1 0 1 0`: run length 4 (R60). -/
  | run4
  /-- Counter `1 0 1 1`: run length 5 (R60). -/
  | run5
  /-- Counter `1 1 0 0`: run length 6 (R60). -/
  | run6
  /-- Counter `1 1 0 1`: run length 7 (R60). -/
  | run7
  /-- Counter `1 1 1 0`: run length 8 (R60). -/
  | run8
  /-- Counter `1 1 1 1`: run length 9 (R60). -/
  | run9
  /-- Cell code `0 0` (R61). -/
  | cellEmpty
  /-- Cell code `0 1` (R61). -/
  | cellWall
  /-- Cell code `1 0` (R61). -/
  | cellBarrel
  /-- Cell code `1 1 0` (R61). -/
  | cellBarrelSlot
  /-- Cell code `1 1 1` (R61). -/
  | cellBarrelPlaced
  deriving DecidableEq, Repr

end Sys2Proof
end

