-- ==== Sys2Proof/WellFormed.lean ====
section
/-! DEFINITION. Which instruction terms are well-formed: R70 and R72 ask `ARG[31:16] = 0` of RESOLVE and
DECODE_MAP and nothing of any other instruction. -/

namespace Sys2Proof

/-- The operand check of R72. An ill-formed term still has a meaning: it is answered REFUSED(IndexTooWide) (R134). -/
def Instr.wellFormed : Instr → Bool
  | .resolve arg => arg.extractLsb' 16 16 == 0#16
  | .decodeMap arg => arg.extractLsb' 16 16 == 0#16
  | .reset _ => true
  | .init _ => true
  | .nextBit _ => true
  | .nextCell _ => true
  | .readByte _ => true
  | .readStatus _ => true
  | .readMap _ => true
  | .reserved9 _ => true
  | .reservedA _ => true
  | .reservedB _ => true
  | .reservedC _ => true
  | .reservedD _ => true
  | .reservedE _ => true
  | .reservedF _ => true
  | .run1 => true
  | .run2 => true
  | .run3 => true
  | .run4 => true
  | .run5 => true
  | .run6 => true
  | .run7 => true
  | .run8 => true
  | .run9 => true
  | .cellEmpty => true
  | .cellWall => true
  | .cellBarrel => true
  | .cellBarrelSlot => true
  | .cellBarrelPlaced => true

end Sys2Proof
end

