-- ==== Sys2Proof/Decode.lean ====
section
/-! DEFINITION. Decoding and encoding: the command word of R70 (`CMD[35:32] ARG[31:0]`) and the bitstream symbols
of R60 and R61, read as bits in read order (R8, R46). -/

namespace Sys2Proof

/-- Why bits are no instruction. -/
inductive Reject where
  /-- The bits end inside a counter prefix (R63). -/
  | truncatedCounter
  /-- The bits end inside a cell code (R63). -/
  | truncatedCellCode
  /-- More bits stand after the one symbol that was asked for. -/
  | trailingBits
  /-- A command word has 36 bits (R70); a bit above them is set. -/
  | commandTooWide
  /-- No row of the opcode table has this many bits with this value. -/
  | noSuchRow
  deriving DecidableEq, Repr

/-- An instruction's bits, by kind (R2): a 36-bit command word, or a symbol's bits in read order. -/
inductive Encoding where
  | command (w : BitVec 36)
  | counter (bits : List Bool)
  | cellCode (bits : List Bool)
  deriving DecidableEq, Repr

/-- `CMD`, bits 35..32 of the command word (R70). -/
def wordCmd (w : BitVec 36) : BitVec 4 := w.extractLsb' 32 4

/-- `ARG`, bits 31..0 of the command word (R70). -/
def wordArg (w : BitVec 36) : BitVec 32 := w.extractLsb' 0 32

/-- The command word of an opcode and an argument (R70). -/
def commandWord (cmd : BitVec 4) (arg : BitVec 32) : BitVec 36 := cmd ++ arg

/-- The command an opcode and an argument name (the table of R70). Every opcode is a row: 0x9..0xF are the reserved
ones. -/
def decodeCommand (cmd : BitVec 4) (arg : BitVec 32) : Instr :=
  match cmd.toNat with
  | 0x0 => .reset arg
  | 0x1 => .init arg
  | 0x2 => .nextBit arg
  | 0x3 => .nextCell arg
  | 0x4 => .readByte arg
  | 0x5 => .resolve arg
  | 0x6 => .decodeMap arg
  | 0x7 => .readStatus arg
  | 0x8 => .readMap arg
  | 0x9 => .reserved9 arg
  | 0xA => .reservedA arg
  | 0xB => .reservedB arg
  | 0xC => .reservedC arg
  | 0xD => .reservedD arg
  | 0xE => .reservedE arg
  | _ => .reservedF arg

/-- The counter prefix at the head of a bit sequence and the bits after it (R60, R63). The code is complete: only
a sequence that ends too soon is rejected (R62). -/
def decodeCounter : List Bool → Except Reject (Instr × List Bool)
  | false :: rest => .ok (.run1, rest)
  | true :: false :: false :: false :: rest => .ok (.run2, rest)
  | true :: false :: false :: true :: rest => .ok (.run3, rest)
  | true :: false :: true :: false :: rest => .ok (.run4, rest)
  | true :: false :: true :: true :: rest => .ok (.run5, rest)
  | true :: true :: false :: false :: rest => .ok (.run6, rest)
  | true :: true :: false :: true :: rest => .ok (.run7, rest)
  | true :: true :: true :: false :: rest => .ok (.run8, rest)
  | true :: true :: true :: true :: rest => .ok (.run9, rest)
  | _ => .error .truncatedCounter

/-- The cell code at the head of a bit sequence and the bits after it (R61, R63). The code is complete (R62). -/
def decodeCellCode : List Bool → Except Reject (Instr × List Bool)
  | false :: false :: rest => .ok (.cellEmpty, rest)
  | false :: true :: rest => .ok (.cellWall, rest)
  | true :: false :: rest => .ok (.cellBarrel, rest)
  | true :: true :: false :: rest => .ok (.cellBarrelSlot, rest)
  | true :: true :: true :: rest => .ok (.cellBarrelPlaced, rest)
  | _ => .error .truncatedCellCode

/-- A decoded symbol that uses up all its bits. -/
def exactly : Except Reject (Instr × List Bool) → Except Reject Instr
  | .ok (i, []) => .ok i
  | .ok (_, _ :: _) => .error .trailingBits
  | .error e => .error e

/-- The instruction that an encoding's bits are, total on any bits. -/
def decode : Encoding → Except Reject Instr
  | .command w => .ok (decodeCommand (wordCmd w) (wordArg w))
  | .counter bits => exactly (decodeCounter bits)
  | .cellCode bits => exactly (decodeCellCode bits)

/-- The bits of every instruction, from the tables of R70, R60 and R61. -/
def encode : Instr → Encoding
  | .reset arg => .command (commandWord 0x0#4 arg)
  | .init arg => .command (commandWord 0x1#4 arg)
  | .nextBit arg => .command (commandWord 0x2#4 arg)
  | .nextCell arg => .command (commandWord 0x3#4 arg)
  | .readByte arg => .command (commandWord 0x4#4 arg)
  | .resolve arg => .command (commandWord 0x5#4 arg)
  | .decodeMap arg => .command (commandWord 0x6#4 arg)
  | .readStatus arg => .command (commandWord 0x7#4 arg)
  | .readMap arg => .command (commandWord 0x8#4 arg)
  | .reserved9 arg => .command (commandWord 0x9#4 arg)
  | .reservedA arg => .command (commandWord 0xA#4 arg)
  | .reservedB arg => .command (commandWord 0xB#4 arg)
  | .reservedC arg => .command (commandWord 0xC#4 arg)
  | .reservedD arg => .command (commandWord 0xD#4 arg)
  | .reservedE arg => .command (commandWord 0xE#4 arg)
  | .reservedF arg => .command (commandWord 0xF#4 arg)
  | .run1 => .counter [false]
  | .run2 => .counter [true, false, false, false]
  | .run3 => .counter [true, false, false, true]
  | .run4 => .counter [true, false, true, false]
  | .run5 => .counter [true, false, true, true]
  | .run6 => .counter [true, true, false, false]
  | .run7 => .counter [true, true, false, true]
  | .run8 => .counter [true, true, true, false]
  | .run9 => .counter [true, true, true, true]
  | .cellEmpty => .cellCode [false, false]
  | .cellWall => .cellCode [false, true]
  | .cellBarrel => .cellCode [true, false]
  | .cellBarrelSlot => .cellCode [true, true, false]
  | .cellBarrelPlaced => .cellCode [true, true, true]

/-- How many bits an encoding has. -/
def Encoding.bitLength : Encoding → Nat
  | .command _ => 36
  | .counter bits => bits.length
  | .cellCode bits => bits.length

/-- The `len` low bits of a number, most significant first: a symbol of the opcode table in read order (R8). -/
def bitsOf : (len : Nat) → Nat → List Bool
  | 0, _ => []
  | len + 1, w => w.testBit len :: bitsOf len w

/-- The 8 bits of a byte in read order, bit 7 first (R46). -/
def byteBits (b : Byte) : List Bool := bitsOf 8 b.toNat

/-- The symbol whose code, as a number, is `w`, where the number of bits is not known (R60, R61). The codes of R60 are
0 and 8..15 and those of R61 are 0, 1, 2, 6 and 7: the number 0 alone is a code of both, and is read as the counter
`0`, since a token begins with its counter (R59): DESIGN CHOICE (notes/assumptions/11.md). -/
def symbolOfValue (w : Nat) : Except Reject Encoding :=
  if w = 0 then .ok (.counter (bitsOf 1 w))
  else if w ≤ 2 then .ok (.cellCode (bitsOf 2 w))
  else if w = 6 ∨ w = 7 then .ok (.cellCode (bitsOf 3 w))
  else if 8 ≤ w ∧ w ≤ 15 then .ok (.counter (bitsOf 4 w))
  else .error .noSuchRow

/-- The encoding of the opcode-table row that has `nbits` bits of value `w`: a command from 33 bits on, a symbol below.
1 and 4 bits are a counter prefix and 2 and 3 bits a cell code; with any other number (a symbol in a whole byte) the
value says which. -/
def tableEncoding (nbits w : Nat) : Except Reject Encoding :=
  if 33 ≤ nbits then
    if w < 2 ^ 36 then .ok (.command (BitVec.ofNat 36 w)) else .error .commandTooWide
  else if nbits = 1 ∨ nbits = 4 then
    if w < 2 ^ nbits then .ok (.counter (bitsOf nbits w)) else .error .noSuchRow
  else if nbits = 2 ∨ nbits = 3 then
    if w < 2 ^ nbits then .ok (.cellCode (bitsOf nbits w)) else .error .noSuchRow
  else symbolOfValue w

/-- The decoder's answer on an instruction numbered as the opcode table numbers it. -/
def decodeTableWord (nbits w : Nat) : Option Instr :=
  match tableEncoding nbits w with
  | .error _ => none
  | .ok e =>
    match decode e with
    | .error _ => none
    | .ok i => some i

end Sys2Proof
end

