-- ==== Sys2Proof/Machine/SymbolDecoder.lean ====
section
/-! DEFINITION. NEXT_CELL, and the bitstream symbols as instructions of their own: a counter prefix and then a cell code
are the two halves of a NEXT_CELL that reads a fresh token (41_symbol_decoder.md, R2). -/

namespace Sys2Proof.Machine

/-- NEXT_CELL (R90). -/
def execNextCell (_arg : BitVec 32) (s : State) : Host.Outcome State Fault Refusal :=
  gated s ((cellStep s.env s.smd).map .cell)

/-- The end of a symbol's step. A buffer that ends inside the symbol ends the NEXT_CELL it belongs to (R98, R141), and
no token is being read any more. -/
def finishSymbol (s : State) (x : Res Unit) : Host.Outcome State Fault Refusal :=
  match x with
  | .ok _ r => .next (s.put r)
  | .raised kind a r => .next (s.put { raiseError .primitive kind a r with token := .idle })
  | .fault f => .fault f

/-- A counter prefix of `k` bits and run length `n` (R91): its bits are consumed, and the cell code is next (R59). DEDUCED:
the first half of R90's fresh token (notes/assumptions/9.md). -/
def takeCounter (k n : Nat) (s : State) : Host.Outcome State Fault Refusal :=
  finishSymbol s ((skipBits s.env k s.smd).bind fun _ r => .ok () { r with token := .code n })

/-- A cell code of `k` bits for the cell `c` (R94) after a counter of run length `n`: its bits are consumed, the token
`n×c` is stored, and its first cell is returned (R90). -/
def takeCellCode (k : Nat) (c : Cell) (s : State) : Host.Outcome State Fault Refusal :=
  match s.smd.token with
  | .code n =>
    finishSymbol s ((skipBits s.env k s.smd).bind fun _ r =>
      .ok () (respond (.cell c) { storeToken n c r with token := .idle }))
  | .idle => .fault .cellCodeWithoutCounter
  | .counter => .fault .cellCodeWithoutCounter

/-- Counter `0` (R60). -/
def execRun1 (s : State) : Host.Outcome State Fault Refusal := takeCounter 1 1 s

/-- Counter `1 0 0 0` (R60). -/
def execRun2 (s : State) : Host.Outcome State Fault Refusal := takeCounter 4 2 s

/-- Counter `1 0 0 1` (R60). -/
def execRun3 (s : State) : Host.Outcome State Fault Refusal := takeCounter 4 3 s

/-- Counter `1 0 1 0` (R60). -/
def execRun4 (s : State) : Host.Outcome State Fault Refusal := takeCounter 4 4 s

/-- Counter `1 0 1 1` (R60). -/
def execRun5 (s : State) : Host.Outcome State Fault Refusal := takeCounter 4 5 s

/-- Counter `1 1 0 0` (R60). -/
def execRun6 (s : State) : Host.Outcome State Fault Refusal := takeCounter 4 6 s

/-- Counter `1 1 0 1` (R60). -/
def execRun7 (s : State) : Host.Outcome State Fault Refusal := takeCounter 4 7 s

/-- Counter `1 1 1 0` (R60). -/
def execRun8 (s : State) : Host.Outcome State Fault Refusal := takeCounter 4 8 s

/-- Counter `1 1 1 1` (R60). -/
def execRun9 (s : State) : Host.Outcome State Fault Refusal := takeCounter 4 9 s

/-- Cell code `0 0` (R61). -/
def execCellEmpty (s : State) : Host.Outcome State Fault Refusal := takeCellCode 2 .empty s

/-- Cell code `0 1` (R61). -/
def execCellWall (s : State) : Host.Outcome State Fault Refusal := takeCellCode 2 .wall s

/-- Cell code `1 0` (R61). -/
def execCellBarrel (s : State) : Host.Outcome State Fault Refusal := takeCellCode 2 .barrel s

/-- Cell code `1 1 0` (R61). -/
def execCellBarrelSlot (s : State) : Host.Outcome State Fault Refusal := takeCellCode 3 .barrelSlot s

/-- Cell code `1 1 1` (R61). -/
def execCellBarrelPlaced (s : State) : Host.Outcome State Fault Refusal := takeCellCode 3 .barrelPlaced s

/-- The counter prefix that stands next in the stream (R91), and no instruction where the buffer ends inside it. -/
def fetchCounter (s : State) : Except Reject Instr := (decodeCounter (peekBits s.env 4 s.smd)).map Prod.fst

/-- The cell code that stands next in the stream (R94), and no instruction where the buffer ends inside it. -/
def fetchCellCode (s : State) : Except Reject Instr := (decodeCellCode (peekBits s.env 3 s.smd)).map Prod.fst

/-- The buffer ends inside the counter prefix that stands next (R98): ReadCounter's own raise. -/
def cutCounter (s : State) : Host.Outcome State Fault Refusal :=
  finishSymbol s ((readCounter s.env s.smd).map fun _ => ())

/-- The buffer ends inside the cell code that stands next (R98): ReadCellCode's own raise. -/
def cutCellCode (s : State) : Host.Outcome State Fault Refusal :=
  finishSymbol s ((readCellCode s.env s.smd).map fun _ => ())

end Sys2Proof.Machine
end

