-- ==== Sys2Proof/Machine/Dispatch.lean ====
section
/-! DEFINITION. The one meaning of every instruction. -/

namespace Sys2Proof.Machine

def exec (i : Instr) (s : State) : Host.Outcome State Fault Refusal :=
  match i with
  | .reset arg => Sys2Proof.Machine.execReset arg s
  | .init start => Sys2Proof.Machine.execInit start s
  | .nextBit arg => Sys2Proof.Machine.execNextBit arg s
  | .nextCell arg => Sys2Proof.Machine.execNextCell arg s
  | .readByte arg => Sys2Proof.Machine.execReadByte arg s
  | .resolve arg => Sys2Proof.Machine.execResolve arg s
  | .decodeMap arg => Sys2Proof.Machine.execDecodeMap arg s
  | .readStatus arg => Sys2Proof.Machine.execReadStatus arg s
  | .readMap arg => Sys2Proof.Machine.execReadMap arg s
  | .reserved9 arg => Sys2Proof.Machine.execReserved9 arg s
  | .reservedA arg => Sys2Proof.Machine.execReservedA arg s
  | .reservedB arg => Sys2Proof.Machine.execReservedB arg s
  | .reservedC arg => Sys2Proof.Machine.execReservedC arg s
  | .reservedD arg => Sys2Proof.Machine.execReservedD arg s
  | .reservedE arg => Sys2Proof.Machine.execReservedE arg s
  | .reservedF arg => Sys2Proof.Machine.execReservedF arg s
  | .run1 => Sys2Proof.Machine.execRun1 s
  | .run2 => Sys2Proof.Machine.execRun2 s
  | .run3 => Sys2Proof.Machine.execRun3 s
  | .run4 => Sys2Proof.Machine.execRun4 s
  | .run5 => Sys2Proof.Machine.execRun5 s
  | .run6 => Sys2Proof.Machine.execRun6 s
  | .run7 => Sys2Proof.Machine.execRun7 s
  | .run8 => Sys2Proof.Machine.execRun8 s
  | .run9 => Sys2Proof.Machine.execRun9 s
  | .cellEmpty => Sys2Proof.Machine.execCellEmpty s
  | .cellWall => Sys2Proof.Machine.execCellWall s
  | .cellBarrel => Sys2Proof.Machine.execCellBarrel s
  | .cellBarrelSlot => Sys2Proof.Machine.execCellBarrelSlot s
  | .cellBarrelPlaced => Sys2Proof.Machine.execCellBarrelPlaced s

end Sys2Proof.Machine
end

