-- ==== Sys2Proof/Machine/Step.lean ====
section
/-! DEFINITION. One step: the next command the host has issued (R53, R70), or, inside a token, the next symbol of the
bitstream (R90). -/

namespace Sys2Proof.Machine

/-- One step. Inside a token the symbol at the bit cursor is run; the token is `idle` at every boundary between commands.
Then the oldest command the host has issued is taken, by the SMD it is issued to. With no command left SMD is idle and
keeps every register (R158). -/
def step (s : State) : Host.Outcome State Fault Refusal :=
  match s.smd.token with
  | .counter =>
    match fetchCounter s with
    | .ok i => exec i s
    | .error _ => cutCounter s
  | .code _ =>
    match fetchCellCode s with
    | .ok i => exec i s
    | .error _ => cutCellCode s
  | .idle =>
    match s.host with
    | [] => .next s
    | c :: rest =>
      match s.focus c.smdNo with
      | none => .fault .noSuchSmd
      | some t => exec (decodeCommand c.cmd c.arg) { t with host := rest }

/-- The state whose next step runs the instruction of this opcode-table word: a command becomes the next one the host
has issued to the acting SMD, and a symbol stands at its bit cursor, with the token at the half the symbol is
(a cell code then follows a counter of run length 1). It stands for the host's move: DESIGN CHOICE
(notes/assumptions/8.md). -/
def State.withFetchWord (s : State) (nbits w : Nat) : State :=
  match tableEncoding nbits w with
  | .error _ => s
  | .ok (.command v) =>
    { s with host := { smdNo := s.before.length, cmd := wordCmd v, arg := wordArg v } :: s.host,
             smd := { s.smd with token := .idle } }
  | .ok (.counter bits) =>
    let t := s.placeBits bits
    { t with smd := { t.smd with token := .counter } }
  | .ok (.cellCode bits) =>
    let t := s.placeBits bits
    { t with smd := { t.smd with token := .code 1 } }

end Sys2Proof.Machine
end

