-- ==== Sys2Proof/Safety.lean ====
section
/-! DEFINITION. The terms claims are stated in: the invariants the spec promises, what a successful run is, the stream as
a plain sequence of bits and tokens, and which registers hold a value. No definition here is used by the machine. -/

namespace Sys2Proof.Safety

open Sys2Proof.Machine

/-! ### Invariants -/

/-- The invariants of R24 on the core registers, with the bound of R18 on a `BYTE_PTR` that has latched. -/
abbrev CoreOk (e : Env) (r : Smd) : Prop :=
  (0#4 < r.pending → r.cached ≠ none) ∧ r.bitsLeft ≤ 8#4 ∧ r.pending ≤ 8#4 ∧
  (0#4 < r.bitsLeft → 1 ≤ r.bytePtr.toNat ∧ r.bytePtr.toNat ≤ e.cfg.bufLen ∧
    r.curByte = e.buf.read (r.bytePtr.toNat - 1))

/-- The invariants of R29 on the Map output. -/
abbrev MapOk (e : Env) (r : Smd) : Prop :=
  r.mapValid = true →
    1 ≤ r.sizeX.toNat ∧ r.sizeX.toNat < e.cfg.maxX ∧ 1 ≤ r.sizeY.toNat ∧ r.sizeY.toNat < e.cfg.maxY ∧
    r.manX.toNat < r.sizeX.toNat ∧ r.manY.toNat < r.sizeY.toNat ∧
    r.grid[r.manY.toNat * r.sizeX.toNat + r.manX.toNat]? = some .empty

/-- The status registers are clear or hold an error (R30, R140). -/
abbrev StatusOk (r : Smd) : Prop :=
  (r.err = false → r.errKind = .none ∧ r.errMap = noMap ∧ r.errOffset = 0#32) ∧ (r.err = true → r.errKind ≠ .none)

/-- A counter that has been read has one of the nine run lengths (R91). -/
def tokenOk : Token → Bool
  | .idle => true
  | .counter => true
  | .code n => decide (1 ≤ n) && decide (n ≤ 9)

/-- What holds of every instance after every command: R24, R29, R30, the size of the grid store (R27), and `MAP_IDX`
outside a DECODE_MAP (R26). -/
abbrev SmdOk (e : Env) (r : Smd) : Prop :=
  CoreOk e r ∧ MapOk e r ∧ StatusOk r ∧ r.grid.length = e.cfg.gridCap ∧ r.mapIdx = noMap ∧ tokenOk r.token = true

/-- The machine's invariant: a configuration whose offsets fit (R7), a buffer in its canonical form, and every instance
as `SmdOk` says. -/
abbrev Inv (s : State) : Prop :=
  s.env.cfg.wf ∧ s.env.buf.wf = true ∧ ∀ r ∈ s.all, SmdOk s.env r

/-- Every instance stands at a boundary between commands (R15: a command is one atomic step). -/
abbrev AtBoundary (s : State) : Prop := ∀ r ∈ s.all, r.token = .idle

/-- The next command the host has issued goes to an instance that exists (R163). -/
abbrev HostReady (s : State) : Prop := ∀ c ∈ s.host.head?, c.smdNo < s.all.length

/-! ### Runs -/

/-- No instance has the refusal mark, the premise that R150 asks of a claim about a run. -/
abbrev NoRefusal (s : State) : Prop := ∀ r ∈ s.all, r.refusalMark = false

/-- The responses to `m` NEXT_CELLs in a row, as the cells of their OK responses, and the state after them; none as soon
as a response is not OK. -/
def nextCells : Nat → State → Option (List Cell × State)
  | 0, s => some ([], s)
  | m + 1, s =>
    match exec (.nextCell 0#32) s with
    | .next t =>
      match t.smd.response with
      | some (.ok (.cell c)) => (nextCells m t).map fun x => (c :: x.1, x.2)
      | _ => none
    | .fault _ => none
    | .refused _ => none

/-- The bits that `k` NEXT_BITs in a row answer, and the state after them; none as soon as a response is not OK. -/
def nextBits : Nat → State → Option (List Bool × State)
  | 0, s => some ([], s)
  | k + 1, s =>
    match exec (.nextBit 0#32) s with
    | .next t =>
      match t.smd.response with
      | some (.ok (.bit b)) => (nextBits k t).map fun x => (b :: x.1, x.2)
      | _ => none
    | .fault _ => none
    | .refused _ => none

/-! ### The stream as bits and tokens, told apart from how the machine reads it -/

/-- The bit of the buffer at bit position `p`: bit `7 − (p mod 8)` of byte `⌊p / 8⌋` (R38). -/
def streamBit (e : Env) (p : Nat) : Bool := (e.buf.read (p / 8)).getLsbD (7 - p % 8)

/-- These bits stand in the buffer from bit position `p` on, all inside it. -/
abbrev StreamHas (e : Env) (p : Nat) (bits : List Bool) : Prop :=
  p + bits.length ≤ 8 * e.cfg.bufLen ∧ (List.range bits.length).map (fun k => streamBit e (p + k)) = bits

/-- The bit position of the cursor, `8 × BYTE_PTR − BITS_LEFT` (R38). -/
def position (r : Smd) : Nat := 8 * r.bytePtr.toNat - r.bitsLeft.toNat

/-- The instance with its cursor after the bit before position `q`, whose byte is the latched one (R85). -/
def atPosition (e : Env) (q : Nat) (r : Smd) : Smd :=
  { r with bytePtr := offsetOf ((q + 7) / 8), bitsLeft := countOf (8 * ((q + 7) / 8) - q),
           curByte := e.buf.read ((q + 7) / 8 - 1) }

/-- A token `n×c` (R12): a run length from 1 to 9 and a cell. -/
abbrev Tok := Nat × Cell

/-- A run length has a counter (R60). -/
abbrev tokOk (t : Tok) : Prop := 1 ≤ t.1 ∧ t.1 ≤ 9

/-- The counter of a run length: `0` for 1; for 2 to 9 a `1` and then the 3-bit number n − 2 (R60). -/
def counterBits (n : Nat) : List Bool := if n = 1 then [false] else true :: bitsOf 3 (n - 2)

/-- The cell code of a cell (R61). -/
def cellBits : Cell → List Bool
  | .empty => [false, false]
  | .wall => [false, true]
  | .barrel => [true, false]
  | .barrelSlot => [true, true, false]
  | .barrelPlaced => [true, true, true]

/-- The bits of a token: its counter, then its cell code (R59). -/
def tokBits (t : Tok) : List Bool := counterBits t.1 ++ cellBits t.2

/-- The bits of a sequence of tokens, packed back to back (R65). -/
def toksBits (ts : List Tok) : List Bool := ts.flatMap tokBits

/-- The cells a sequence of tokens stands for (R59, R96). -/
def expand (ts : List Tok) : List Cell := ts.flatMap fun t => List.replicate t.1 t.2

/-- `m` cell steps read exactly these tokens: all are tokens, and the last one is begun but maybe not used up (R67). -/
abbrev Supplies (ts : List Tok) (m : Nat) : Prop :=
  (∀ t ∈ ts, tokOk t) ∧ (expand ts.dropLast).length < m ∧ m ≤ (expand ts).length

/-! ### The map record as the buffer holds it (R58) -/

/-- The table entry of map i (R68). -/
def tableValue (e : Env) (i : Nat) : Nat :=
  (e.buf.read (e.cfg.tableBase + 2 * i)).toNat + 256 * (e.buf.read (e.cfg.tableBase + 2 * i + 1)).toNat

/-- The absolute prolog offset S of map i (R69). -/
def recordBase (e : Env) (i : Nat) : Nat := tableValue e i + e.cfg.dataBase

/-- The table entry of map i exists and is in the buffer (R106, R109). -/
abbrev EntryInBuffer (e : Env) (i : Nat) : Prop := i < e.cfg.mapCount ∧ e.cfg.tableBase + 2 * i + 1 < e.cfg.bufLen

/-- `size_x` of map i (R58). -/
def recordX (e : Env) (i : Nat) : Byte := e.buf.read (recordBase e i)

/-- `size_y` of map i (R58). -/
def recordY (e : Env) (i : Nat) : Byte := e.buf.read (recordBase e i + 1)

/-- The epilog offset E of map i, where its bitstream is these tokens (R117). -/
def recordEnd (e : Env) (i : Nat) (ts : List Tok) : Nat := recordBase e i + 2 + ((toksBits ts).length + 7) / 8

/-- `man_x` of map i, where its bitstream is these tokens (R58). -/
def recordManX (e : Env) (i : Nat) (ts : List Tok) : Byte := e.buf.read (recordEnd e i ts)

/-- `man_y` of map i, where its bitstream is these tokens (R58). -/
def recordManY (e : Env) (i : Nat) (ts : List Tok) : Byte := e.buf.read (recordEnd e i ts + 1)

/-- The prolog of map i is in the buffer and passes the dimension check (R113). -/
abbrev PrologOk (e : Env) (i : Nat) : Prop :=
  EntryInBuffer e i ∧ recordBase e i + 1 < e.cfg.bufLen ∧
  (recordX e i).toNat < e.cfg.maxX ∧ (recordY e i).toNat < e.cfg.maxY

/-- The bitstream of map i is these tokens (R58, R59), and its epilog is in the buffer. -/
abbrev StreamOk (e : Env) (i : Nat) (ts : List Tok) : Prop :=
  PrologOk e i ∧ Supplies ts ((recordX e i).toNat * (recordY e i).toNat) ∧
  StreamHas e (8 * (recordBase e i + 2)) (toksBits ts) ∧ recordEnd e i ts + 1 < e.cfg.bufLen

/-- Where the player of map i stands in its grid (R119). -/
def playerIndex (e : Env) (i : Nat) (ts : List Tok) : Nat :=
  (recordManY e i ts).toNat * (recordX e i).toNat + (recordManX e i ts).toNat

/-- The player's position of map i is inside the map (R118). -/
abbrev PlayerInside (e : Env) (i : Nat) (ts : List Tok) : Prop :=
  (recordManX e i ts).toNat < (recordX e i).toNat ∧ (recordManY e i ts).toNat < (recordY e i).toNat

/-! ### What DECODE_MAP leaves, told from the record -/

/-- The instance with a primitive's error recorded at offset `a` (R141): NO_MAP, and nothing but the status and the
response written. -/
def withError (kind : ErrKind) (a : Nat) (r : Smd) : Smd :=
  { r with err := true, errKind := kind, errMap := noMap, errOffset := offsetOf a,
           response := some (.err kind noMap (offsetOf a)) }

/-- The instance in which a DECODE_MAP of map i has begun (R112): the status and `MAP_VALID` are clear. -/
def decodeBegun (r : Smd) : Smd :=
  { r with err := false, errKind := .none, errMap := noMap, errOffset := 0#32, mapValid := false, token := .idle }

/-- The instance in which a DECODE_MAP of map i has ended with an error (R123, R141). -/
def decodeFailed (kind : ErrKind) (i : MapIndex) (a : Nat) (r : Smd) : Smd :=
  { r with err := true, errKind := kind, errMap := i, errOffset := offsetOf a,
           response := some (.err kind i (offsetOf a)), ready := false, mapIdx := noMap }

/-- The instance in which a DECODE_MAP has ended with a sealed Map (R119, R123). -/
def decodeSealed (r : Smd) : Smd :=
  { r with mapValid := true, response := some (.ok .none), ready := false, mapIdx := noMap }

/-- The instance after DECODE_MAP has read the prolog of map i and started the core behind it (R112 steps 2 and 3, R114).
`READY` is written when the command ends (R123). -/
def streamStarted (e : Env) (i : Nat) (r : Smd) : Smd :=
  { decodeBegun r with
    sizeX := recordX e i
    sizeY := recordY e i
    bytePtr := offsetOf (recordBase e i + 2)
    bitsLeft := 0#4
    pending := 0#4
    cached := none }

/-- The instance after the loops of DECODE_MAP over a map with a zero dimension (R121): no cell step is made. `ROW` runs
where there are rows, and `COL` does not (DEDUCED, notes/assumptions/12.md). -/
def noCellsRead (e : Env) (i : Nat) (r : Smd) : Smd :=
  { streamStarted e i r with row := if recordY e i = 0#8 then r.row else byteOf ((recordY e i).toNat - 1) }

/-- The instance after the cell steps of DECODE_MAP for map i, whose bitstream is these tokens (R112 step 4): the grid
holds the first `size_x × size_y` of their cells, and the cursor stands after the last token's last bit (R117). -/
def cellsRead (e : Env) (i : Nat) (ts : List Tok) (r : Smd) : Smd :=
  { streamStarted e i r with
    bytePtr := offsetOf (recordEnd e i ts)
    bitsLeft := countOf (8 * recordEnd e i ts - (8 * (recordBase e i + 2) + (toksBits ts).length))
    curByte := e.buf.read (recordEnd e i ts - 1)
    pending := countOf ((expand ts).length - (recordX e i).toNat * (recordY e i).toNat)
    cached := ts.getLast?.map Prod.snd
    row := byteOf ((recordY e i).toNat - 1)
    col := byteOf ((recordX e i).toNat - 1)
    grid := (expand ts).take ((recordX e i).toNat * (recordY e i).toNat)
      ++ r.grid.drop ((recordX e i).toNat * (recordY e i).toNat) }

/-- The instance when the buffer ends inside the bitstream of map i, after these whole tokens (R98, R142): their cells are
in the grid, every bit of the buffer is consumed, and the next cell step had begun. -/
def streamCut (e : Env) (i : Nat) (ts : List Tok) (r : Smd) : Smd :=
  { streamStarted e i r with
    bytePtr := offsetOf e.cfg.bufLen
    curByte := if recordBase e i + 2 < e.cfg.bufLen then e.buf.read (e.cfg.bufLen - 1) else r.curByte
    cached := ts.getLast?.map Prod.snd
    row := byteOf ((expand ts).length / (recordX e i).toNat)
    col := byteOf ((expand ts).length % (recordX e i).toNat)
    grid := expand ts ++ r.grid.drop (expand ts).length }

/-- The instance with the epilog at `E` read (R112 step 5): the cursor stands after it, and no bit is left. -/
def epilogRead (e : Env) (epilog : Nat) (r : Smd) : Smd :=
  { r with
    manX := e.buf.read epilog
    manY := e.buf.read (epilog + 1)
    bytePtr := offsetOf (epilog + 2)
    bitsLeft := 0#4 }

/-- The instance when the buffer ends inside the epilog at `E` (R112 step 5, R142): `MAN_X` is written where only `man_y` is
past it, and the cursor has not moved. -/
def epilogCut (e : Env) (epilog : Nat) (r : Smd) : Smd :=
  { r with manX := if epilog < e.cfg.bufLen then e.buf.read epilog else r.manX }

/-- The instance after DECODE_MAP has read the whole record of map i, whose bitstream is these tokens (R112 steps 2 to
5). -/
def recordRead (e : Env) (i : Nat) (ts : List Tok) (r : Smd) : Smd :=
  epilogRead e (recordEnd e i ts) (cellsRead e i ts r)

/-! ### Registers that hold a value (R35) -/

/-- The instance with every register that holds no value replaced by zero: `CUR_BYTE` while `BITS_LEFT = 0`, the Map
registers while no Map is sealed, the `GRID` entries at and above `SIZE_X × SIZE_Y`, and `ROW` and `COL`, which no command
returns (R26, R34, R35). -/
def valued (r : Smd) : Smd :=
  { r with
    curByte := if r.bitsLeft = 0#4 then 0#8 else r.curByte
    row := 0#8
    col := 0#8
    sizeX := if r.mapValid then r.sizeX else 0#8
    sizeY := if r.mapValid then r.sizeY else 0#8
    manX := if r.mapValid then r.manX else 0#8
    manY := if r.mapValid then r.manY else 0#8
    grid := if r.mapValid then r.grid.take (r.sizeX.toNat * r.sizeY.toNat) else [] }

end Sys2Proof.Safety
end

