-- ==== Sys2Proof/Certificates/Slice0/Obligations.lean ====
section
/-! DEFINITION. What the provers are asked to prove: SMD's rules as statements about the model. -/

open Sys2Proof Sys2Proof.Machine Sys2Proof.Safety

/-! ### Encodings (30_encoding.md) -/

/-- R59, R60, R61, R70: decoding and encoding are inverse to each other, for every instruction and for every encoding
that decodes at all. -/
def Obligations.DecodeEncodeRoundTrip : Prop :=
  (∀ i : Instr, decode (encode i) = .ok i) ∧
  (∀ (e : Encoding) (i : Instr), decode e = .ok i → encode i = e)

/-- R62, R63: four bits begin with exactly one counter prefix and three bits with exactly one cell code; the decoder
takes that code off whatever bits follow it. -/
def Obligations.CodesCompleteAndPrefixFree : Prop :=
  (∀ bits : List Bool, 4 ≤ bits.length → ∃! i : Instr, ∃ code, encode i = .counter code ∧ code <+: bits) ∧
  (∀ bits : List Bool, 3 ≤ bits.length → ∃! i : Instr, ∃ code, encode i = .cellCode code ∧ code <+: bits) ∧
  (∀ (i : Instr) (code rest : List Bool),
    (encode i = .counter code → decodeCounter (code ++ rest) = .ok (i, rest)) ∧
    (encode i = .cellCode code → decodeCellCode (code ++ rest) = .ok (i, rest)))

/-- R60, R61, R70: words and codes written out from the tables decode to what they stand for. -/
def Obligations.WrittenOutWordsDecode : Prop :=
  decode (.command 0x10000148E#36) = .ok (.init 0x148E#32) ∧
  decode (.command 0x500000003#36) = .ok (.resolve 3#32) ∧
  decode (.command 0x900000000#36) = .ok (.reserved9 0#32) ∧
  decode (.counter [true, false, true, true]) = .ok .run5 ∧
  decode (.cellCode [true, true, false]) = .ok .cellBarrelSlot

/-! ### Steps, instances and the configuration -/

/-- R53, R70, R156: a step between commands takes the oldest command issued, moves the focus to the instance it is
issued to, which changes no instance, and runs the instruction the command decodes to. The queue of commands is the
model's choice (notes/assumptions/7.md). -/
def Obligations.StepRunsIssuedCommand : Prop :=
  ∀ (s : State) (c : Issued) (rest : List Issued),
    s.smd.token = .idle → s.host = c :: rest → c.smdNo < s.all.length →
    ∃ t : State, t.all = s.all ∧ t.before.length = c.smdNo ∧ t.env = s.env ∧ t.host = rest ∧
      step s = exec (decodeCommand c.cmd c.arg) t

/-- R90, R91, R94, R46: inside a token a step runs the symbol whose code stands in the stream at the bit cursor.
Symbols as steps of their own are the model's inference from R2 (notes/assumptions/9.md). -/
def Obligations.StepRunsSymbolAtCursor : Prop :=
  ∀ (s : State) (i : Instr) (code : List Bool), CoreOk s.env s.smd → s.env.cfg.wf →
    StreamHas s.env (position s.smd) code →
    (s.smd.token = .counter → encode i = .counter code → step s = exec i s) ∧
    (∀ n, s.smd.token = .code n → encode i = .cellCode code → step s = exec i s)

/-- R158: with no command issued SMD is idle and keeps every register. The queue of commands is the model's choice
(notes/assumptions/7.md). -/
def Obligations.IdleKeepsEveryRegister : Prop :=
  ∀ s : State, s.smd.token = .idle → s.host = [] → step s = .next s

/-- R156 and the model's own stop (notes/assumptions/5.md): a command for an instance that does not exist stops. -/
def Obligations.AbsentSmdStops : Prop :=
  ∀ (s : State) (c : Issued) (rest : List Issued),
    s.smd.token = .idle → s.host = c :: rest → s.all.length ≤ c.smdNo → step s = .fault .noSuchSmd

/-- R33, R39, R43: no instruction changes the configuration, any byte of the buffer, or another instance; nor the queue of
issued commands, which no rule has: it is the model's choice (notes/assumptions/7.md). -/
def Obligations.NoInstructionWritesOutsideItsSmd : Prop :=
  ∀ (i : Instr) (s t : State), exec i s = .next t →
    t = s.put t.smd ∧ t.env.cfg = s.env.cfg ∧ (∀ a, t.env.buf.read a = s.env.buf.read a)

/-- R39, R54, R156: a command issued to one instance leaves every other instance as it was. The queue of commands is
the model's choice (notes/assumptions/7.md). -/
def Obligations.StepLeavesOtherSmdsAlone : Prop :=
  ∀ (s t : State) (c : Issued) (rest : List Issued),
    s.smd.token = .idle → s.host = c :: rest → step s = .next t →
    t.env = s.env ∧ t.host = rest ∧ t.all.length = s.all.length ∧
    ∀ k, k ≠ c.smdNo → t.all[k]? = s.all[k]?

/-- R54: two commands to different instances give the same machine in either order. The queue of commands is the
model's choice (notes/assumptions/7.md). -/
def Obligations.CommandsToDifferentSmdsCommute : Prop :=
  ∀ (s t u : State) (c d : Issued) (rest : List Issued), AtBoundary s → c.smdNo ≠ d.smdNo →
    step { s with host := c :: d :: rest } = .next t → step t = .next u →
    ∃ t' u' : State, step { s with host := d :: c :: rest } = .next t' ∧ step t' = .next u' ∧
      u'.all = u.all ∧ u'.env = u.env ∧ u'.host = u.host

/-! ### Reset, and the control commands (44_control.md) -/

/-- R131, R36: RESET gives every register to which R36 gives a value that value, and keeps the refusal mark (R150).
That RESET keeps the mark is the model's inference (notes/assumptions/3.md). -/
def Obligations.ResetCommandClearsRegisters : Prop :=
  ∀ (s : State) (arg : BitVec 32), ∃ t : State, exec (.reset arg) s = .next t ∧ t = s.put t.smd ∧
    t.smd.bytePtr = 0#32 ∧ t.smd.bitsLeft = 0#4 ∧ t.smd.pending = 0#4 ∧ t.smd.cached = none ∧
    t.smd.ready = false ∧ t.smd.mapIdx = noMap ∧ t.smd.mapValid = false ∧
    t.smd.err = false ∧ t.smd.errKind = .none ∧ t.smd.errMap = noMap ∧ t.smd.errOffset = 0#32 ∧
    t.smd.response = some (.ok .none) ∧ t.smd.refusalMark = s.smd.refusalMark

/-- R160, R36, R31: at power-on the registers to which R36 gives a value have it, and READ_STATUS answers the words that
R131's example gives. -/
def Obligations.PowerOnStatus : Prop :=
  State.reset.smd.mapIdx = noMap ∧ State.reset.smd.ready = false ∧ State.reset.smd.mapValid = false ∧
  (match exec (.readStatus 0#32) State.reset with
    | .next t => t.smd.response = some (.ok (.status 0x0001C000#32 0x0000FFFF#32 0#32 0#32))
    | .fault _ => False
    | .refused _ => False)

/-- R132, R31, R25, R140: READ_STATUS writes nothing and answers four words whose fields are the registers, reserved
bits 0; `CACHED` and `ERR_KIND` read as the codes of R25 and R140. -/
def Obligations.ReadStatusReportsFields : Prop :=
  ∀ (s : State) (arg : BitVec 32), ∃ w0 w1 w2 w3 : StatusWord,
    exec (.readStatus arg) s = .next (s.put { s.smd with response := some (.ok (.status w0 w1 w2 w3)) }) ∧
    w0.extractLsb' 0 1 = BitVec.ofBool s.smd.err ∧
    w0.extractLsb' 1 3 = (match s.smd.errKind with
      | .none => 0#3
      | .bufferExhausted => 1#3
      | .indexOutOfRange => 2#3
      | .invalidDimensions => 3#3
      | .invalidPlayerPosition => 4#3
      | .invalidPlayerPlacement => 5#3) ∧
    w0.extractLsb' 4 1 = BitVec.ofBool s.smd.ready ∧ w0.extractLsb' 5 1 = BitVec.ofBool s.smd.mapValid ∧
    w0.extractLsb' 6 4 = s.smd.bitsLeft ∧ w0.extractLsb' 10 4 = s.smd.pending ∧
    w0.extractLsb' 14 3 = (match s.smd.cached with
      | some .empty => 0#3
      | some .wall => 1#3
      | some .barrel => 2#3
      | some .barrelSlot => 3#3
      | some .barrelPlaced => 4#3
      | none => 7#3) ∧
    w0.extractLsb' 17 15 = 0#15 ∧
    w1.extractLsb' 0 16 = s.smd.errMap ∧ w1.extractLsb' 16 16 = 0#16 ∧
    w2 = s.smd.errOffset ∧ w3 = s.smd.bytePtr

/-- R133, R28: READ_MAP answers the sealed Map, exactly `SIZE_X × SIZE_Y` cells, and writes nothing; without a sealed
Map it is refused with NoMap, whatever the Map registers hold. That a refused command answers a next state is the model's
inference (notes/assumptions/3.md). -/
def Obligations.ReadMapAnswersSealedMap : Prop :=
  ∀ (s : State) (arg : BitVec 32),
    (s.smd.mapValid = true → s.smd.sizeX.toNat * s.smd.sizeY.toNat ≤ s.smd.grid.length →
      exec (.readMap arg) s = .next (s.put { s.smd with
        response := some (.ok (.map s.smd.sizeX s.smd.sizeY
          (s.smd.grid.take (s.smd.sizeX.toNat * s.smd.sizeY.toNat)) s.smd.manX s.smd.manY)) })) ∧
    (s.smd.mapValid = false →
      exec (.readMap arg) s = .next (s.put { s.smd with response := some (.refused .noMap), refusalMark := true }))

/-- R134, R150: the seven reserved opcodes, and RESOLVE and DECODE_MAP with `ARG[31:16] ≠ 0`, are refused: no register
changes, and the refusal mark is set. That they answer a next state is the model's inference (notes/assumptions/3.md).
-/
def Obligations.ReservedAndWideAreRefused : Prop :=
  ∀ (s : State) (arg : BitVec 32),
    (∀ i ∈ [Instr.reserved9 arg, .reservedA arg, .reservedB arg, .reservedC arg, .reservedD arg, .reservedE arg,
        .reservedF arg],
      exec i s = .next (s.put { s.smd with response := some (.refused .reservedOpcode), refusalMark := true })) ∧
    (0x10000 ≤ arg.toNat → ∀ i ∈ [Instr.resolve arg, .decodeMap arg],
      exec i s = .next (s.put { s.smd with response := some (.refused .indexTooWide), refusalMark := true }))

/-- R150: no instruction takes the refusal mark away from the instance that has it. That a run goes on after a refusal
is the model's inference (notes/assumptions/3.md). -/
def Obligations.RefusalMarkStays : Prop :=
  ∀ (i : Instr) (s t : State), exec i s = .next t → s.smd.refusalMark = true → t.smd.refusalMark = true

/-! ### The bit reader (40_bitreader.md) -/

/-- R82: INIT clears the status, starts a fresh core at the byte `start`, which it does not check, and leaves the Map
output and `MAP_IDX` as they were. -/
def Obligations.InitStartsStream : Prop :=
  ∀ (s : State) (start : BitVec 32),
    exec (.init start) s = .next (s.put { s.smd with
      err := false, errKind := .none, errMap := noMap, errOffset := 0#32,
      bytePtr := start, bitsLeft := 0#4, pending := 0#4, cached := none, ready := true,
      token := .idle, response := some (.ok .none) })

/-- R80, R143: with `READY = 0` a primitive is refused with NotInitialised, and with `READY = 1` and `ERR = 1` it
answers the recorded error; no register changes. That a refused command answers a next state is the model's inference
(notes/assumptions/3.md). -/
def Obligations.GateRefusesOrRepeatsError : Prop :=
  ∀ (s : State) (arg : BitVec 32), ∀ i ∈ [Instr.nextBit arg, .nextCell arg, .readByte arg],
    (s.smd.ready = false →
      exec i s = .next (s.put { s.smd with response := some (.refused .notInitialised), refusalMark := true })) ∧
    (s.smd.ready = true → s.smd.err = true →
      exec i s = .next (s.put { s.smd with
        response := some (.err s.smd.errKind s.smd.errMap s.smd.errOffset) }))

/-- R83, R81, R46: NEXT_BIT answers the bit at the cursor, most significant bit of each byte first, and moves the cursor
by one bit; where a byte is needed past the buffer's end it raises BufferExhausted(BYTE_PTR) and moves nothing. -/
def Obligations.NextBitDeliversStreamBit : Prop :=
  ∀ (s : State) (arg : BitVec 32), s.smd.ready = true → s.smd.err = false → CoreOk s.env s.smd → s.env.cfg.wf →
    (position s.smd < 8 * s.env.cfg.bufLen →
      exec (.nextBit arg) s = .next (s.put { atPosition s.env (position s.smd + 1) s.smd with
        response := some (.ok (.bit (streamBit s.env (position s.smd)))) })) ∧
    (s.smd.bitsLeft = 0#4 → s.env.cfg.bufLen ≤ s.smd.bytePtr.toNat →
      exec (.nextBit arg) s = .next (s.put (withError .bufferExhausted s.smd.bytePtr.toNat s.smd)))

/-- R84: READ_BYTE answers the byte at `BYTE_PTR`, advances it and discards the unread bits; past the buffer's end it raises
BufferExhausted(BYTE_PTR) and writes no cursor. -/
def Obligations.ReadByteAnswersByteAtCursor : Prop :=
  ∀ (s : State) (arg : BitVec 32), s.smd.ready = true → s.smd.err = false →
    (s.smd.bytePtr.toNat < s.env.cfg.bufLen →
      exec (.readByte arg) s = .next (s.put { s.smd with
        bytePtr := s.smd.bytePtr + 1#32, bitsLeft := 0#4,
        response := some (.ok (.byte (s.env.buf.read s.smd.bytePtr.toNat))) })) ∧
    (s.env.cfg.bufLen ≤ s.smd.bytePtr.toNat →
      exec (.readByte arg) s = .next (s.put (withError .bufferExhausted s.smd.bytePtr.toNat s.smd)))

/-- R85, R86: after INIT(start) exactly `8 × (BUF_LEN − start)` NEXT_BITs answer OK, with the stream's bits in order; after
`k` of them `BYTE_PTR` is `start + ⌈k / 8⌉`; the next one raises BufferExhausted(BUF_LEN). -/
def Obligations.NextBitsReadWholeStream : Prop :=
  ∀ (s s0 : State) (start : BitVec 32), s.env.cfg.wf → start.toNat ≤ s.env.cfg.bufLen →
    exec (.init start) s = .next s0 →
    ∀ k, k ≤ 8 * (s.env.cfg.bufLen - start.toNat) →
      ∃ t : State,
        nextBits k s0 = some ((List.range k).map fun j => streamBit s.env (8 * start.toNat + j), t) ∧
        t.smd.bytePtr.toNat = start.toNat + (k + 7) / 8 ∧
        (k = 8 * (s.env.cfg.bufLen - start.toNat) →
          exec (.nextBit 0#32) t = .next (t.put (withError .bufferExhausted s.env.cfg.bufLen t.smd)))

/-- R38, R18: no instruction but RESET, INIT and DECODE_MAP moves the cursor backwards. -/
def Obligations.CursorOnlyMovesForward : Prop :=
  ∀ (i : Instr) (s t : State), CoreOk s.env s.smd → s.env.cfg.wf → exec i s = .next t →
    (∀ arg, i ≠ .reset arg) → (∀ start, i ≠ .init start) → (∀ arg, i ≠ .decodeMap arg) →
    position s.smd ≤ position t.smd

/-! ### The symbol decoder (41_symbol_decoder.md) -/

/-- R90, R92, R93: with a run pending, NEXT_CELL answers the cached cell, decrements `PENDING` and reads no bit. -/
def Obligations.NextCellContinuesRun : Prop :=
  ∀ (s : State) (arg : BitVec 32) (c : Cell), s.smd.ready = true → s.smd.err = false →
    0#4 < s.smd.pending → s.smd.pending ≤ 8#4 → s.smd.cached = some c →
    exec (.nextCell arg) s = .next (s.put { s.smd with
      pending := s.smd.pending - 1#4, response := some (.ok (.cell c)) })

/-- R90, R91, R94, R93: with no run pending, NEXT_CELL reads the token at the cursor: it answers its cell, moves the cursor
by the token's bits, and stores its run length less one and its cell. -/
def Obligations.NextCellReadsFreshToken : Prop :=
  ∀ (s : State) (arg : BitVec 32) (tok : Tok), s.smd.ready = true → s.smd.err = false → s.smd.pending = 0#4 →
    CoreOk s.env s.smd → s.env.cfg.wf → tokOk tok → StreamHas s.env (position s.smd) (tokBits tok) →
    exec (.nextCell arg) s = .next (s.put
      { atPosition s.env (position s.smd + (tokBits tok).length) s.smd with
        pending := countOf (tok.1 - 1), cached := some tok.2, response := some (.ok (.cell tok.2)) })

/-- R98, R87, R141: where the buffer ends before the token at the cursor is complete, NEXT_CELL raises BufferExhausted at
the buffer's end; the bits before it stay consumed, and `PENDING` and `CACHED` keep their values. -/
def Obligations.NextCellCutByBufferEnd : Prop :=
  ∀ (s : State) (arg : BitVec 32), s.smd.ready = true → s.smd.err = false → s.smd.pending = 0#4 →
    CoreOk s.env s.smd → s.env.cfg.wf →
    (∀ tok, tokOk tok → ¬ StreamHas s.env (position s.smd) (tokBits tok)) →
    (position s.smd < 8 * s.env.cfg.bufLen →
      exec (.nextCell arg) s = .next (s.put (withError .bufferExhausted s.env.cfg.bufLen
        (atPosition s.env (8 * s.env.cfg.bufLen) s.smd)))) ∧
    (8 * s.env.cfg.bufLen ≤ position s.smd →
      exec (.nextCell arg) s = .next (s.put (withError .bufferExhausted s.smd.bytePtr.toNat s.smd)))

/-- R96, R101, R93: from a fresh core, `m` NEXT_CELLs answer the first `m` cells of the tokens in the stream, consume
exactly the bits of the tokens begun, and leave the rest of the last run pending. -/
def Obligations.NextCellsFollowTokens : Prop :=
  ∀ (s : State) (ts : List Tok) (m : Nat), s.smd.ready = true → s.smd.err = false → s.smd.pending = 0#4 →
    CoreOk s.env s.smd → s.env.cfg.wf → Supplies ts m → StreamHas s.env (position s.smd) (toksBits ts) →
    ∃ t : State, nextCells m s = some ((expand ts).take m, t) ∧
      position t.smd = position s.smd + (toksBits ts).length ∧
      t.smd.pending = countOf ((expand ts).length - m) ∧ t.smd.cached = ts.getLast?.map Prod.snd

/-- R60, R91, R59: each counter prefix consumes its 1 or 4 bits and gives its run length, and the token then waits for
its cell code. Symbols as steps of their own are the model's inference from R2 (notes/assumptions/9.md). -/
def Obligations.CounterSymbolsGiveRunLength : Prop :=
  ∀ (s : State), CoreOk s.env s.smd → s.env.cfg.wf →
    ∀ x ∈ [(Instr.run1, 1, 1), (.run2, 4, 2), (.run3, 4, 3), (.run4, 4, 4), (.run5, 4, 5), (.run6, 4, 6),
        (.run7, 4, 7), (.run8, 4, 8), (.run9, 4, 9)],
      position s.smd + x.2.1 ≤ 8 * s.env.cfg.bufLen →
      exec x.1 s = .next (s.put { atPosition s.env (position s.smd + x.2.1) s.smd with token := .code x.2.2 })

/-- R61, R94, R90: after a counter of run length n, each cell code consumes its 2 or 3 bits, stores n − 1 and its
cell, and answers the cell. Symbols as steps of their own are the model's inference from R2 (notes/assumptions/9.md).
-/
def Obligations.CellCodeSymbolsStoreToken : Prop :=
  ∀ (s : State) (n : Nat), CoreOk s.env s.smd → s.env.cfg.wf → s.smd.token = .code n →
    ∀ x ∈ [(Instr.cellEmpty, 2, Cell.empty), (.cellWall, 2, .wall), (.cellBarrel, 2, .barrel),
        (.cellBarrelSlot, 3, .barrelSlot), (.cellBarrelPlaced, 3, .barrelPlaced)],
      position s.smd + x.2.1 ≤ 8 * s.env.cfg.bufLen →
      exec x.1 s = .next (s.put { atPosition s.env (position s.smd + x.2.1) s.smd with
        pending := countOf (n - 1), cached := some x.2.2, token := .idle, response := some (.ok (.cell x.2.2)) })

/-- R98, R87, R141: a symbol that the buffer's end cuts off raises BufferExhausted there, keeps the bits before it
consumed, and writes neither `PENDING` nor `CACHED`; with no bit left at all it raises at `BYTE_PTR` and moves nothing. A
counter does so in every state of the token, a cell code after a counter. Symbols as steps of their own are the model's
inference from R2 (notes/assumptions/9.md). -/
def Obligations.SymbolCutByBufferEnd : Prop :=
  ∀ (s : State) (i : Instr) (k : Nat), CoreOk s.env s.smd → s.env.cfg.wf →
    ((i, k) ∈ [(Instr.run1, 1), (.run2, 4), (.run3, 4), (.run4, 4), (.run5, 4), (.run6, 4), (.run7, 4), (.run8, 4),
        (.run9, 4)] ∨
      (∃ n, s.smd.token = .code n) ∧
        (i, k) ∈ [(Instr.cellEmpty, 2), (.cellWall, 2), (.cellBarrel, 2), (.cellBarrelSlot, 3), (.cellBarrelPlaced, 3)]) →
    (position s.smd < 8 * s.env.cfg.bufLen → 8 * s.env.cfg.bufLen < position s.smd + k →
      exec i s = .next (s.put { withError .bufferExhausted s.env.cfg.bufLen
        (atPosition s.env (8 * s.env.cfg.bufLen) s.smd) with token := .idle })) ∧
    (8 * s.env.cfg.bufLen ≤ position s.smd →
      exec i s = .next (s.put { withError .bufferExhausted s.smd.bytePtr.toNat s.smd with token := .idle }))

/-- R59 and the model's own stop (notes/assumptions/6.md): a cell code with no counter before it stops. -/
def Obligations.BareCellCodeStops : Prop :=
  ∀ s : State, (∀ n, s.smd.token ≠ .code n) →
    ∀ i ∈ [Instr.cellEmpty, .cellWall, .cellBarrel, .cellBarrelSlot, .cellBarrelPlaced],
      exec i s = .fault .cellCodeWithoutCounter

/-- R90, R59, R91, R94: a NEXT_CELL that reads a fresh token is its counter symbol and then its cell-code symbol: the
two steps end as NEXT_CELL does, and where the buffer ends inside the counter the first step alone does. Symbols as
steps of their own are the model's inference from R2 (notes/assumptions/9.md). -/
def Obligations.NextCellIsItsTwoSymbols : Prop :=
  ∀ (s : State) (arg : BitVec 32), s.smd.ready = true → s.smd.err = false → s.smd.pending = 0#4 →
    s.smd.token = .idle →
    ((∃ i, fetchCounter s = .ok i) →
      ∃ (n : Nat) (t : State), step (s.put { s.smd with token := .counter }) = .next t ∧
        t.smd.token = .code n ∧ step t = exec (.nextCell arg) s) ∧
    ((∀ i, fetchCounter s ≠ .ok i) →
      step (s.put { s.smd with token := .counter }) = exec (.nextCell arg) s)

/-! ### The offset resolver (42_offset_resolver.md) -/

/-- R105, R106, R109: RESOLVE answers `LE16(TABLE_BASE + 2i) + DATA_BASE`; IndexOutOfRange for `i ≥ MAP_COUNT`, before any
table read; BufferExhausted at the first table byte past the buffer. Nothing but the response is written. -/
def Obligations.ResolveAnswersRecordOffset : Prop :=
  ∀ (s : State) (i : MapIndex),
    (EntryInBuffer s.env i.toNat →
      exec (.resolve (i.setWidth 32)) s = .next (s.put { s.smd with
        response := some (.ok (.offset (offsetOf (recordBase s.env i.toNat)))) })) ∧
    (s.env.cfg.mapCount ≤ i.toNat →
      exec (.resolve (i.setWidth 32)) s = .next (s.put { s.smd with
        response := some (.err .indexOutOfRange i (offsetOf (s.env.cfg.tableBase + 2 * i.toNat))) })) ∧
    (i.toNat < s.env.cfg.mapCount → s.env.cfg.bufLen ≤ s.env.cfg.tableBase + 2 * i.toNat + 1 →
      exec (.resolve (i.setWidth 32)) s = .next (s.put { s.smd with
        response := some (.err .bufferExhausted i (offsetOf
          (if s.env.cfg.bufLen ≤ s.env.cfg.tableBase + 2 * i.toNat then s.env.cfg.tableBase + 2 * i.toNat
            else s.env.cfg.tableBase + 2 * i.toNat + 1))) }))

/-- R107, R108: RESOLVE writes no register and its response depends on the configuration and the argument alone. -/
def Obligations.ResolveIsPureLookup : Prop :=
  ∀ (s u : State) (i : MapIndex), s.env = u.env →
    ∃ answer : Response,
      exec (.resolve (i.setWidth 32)) s = .next (s.put { s.smd with response := some answer }) ∧
      exec (.resolve (i.setWidth 32)) u = .next (u.put { u.smd with response := some answer })

/-! ### The map assembler (43_map_assembler.md) -/

/-- R112, R115, R116, R117, R119, R122, R123: a DECODE_MAP of a record that is whole, with its player inside the map
on an Empty cell, seals the Map: the grid is the first `size_x × size_y` cells of its tokens, in order. What `ROW` and
`COL` hold afterwards, and `CUR_BYTE` while `BITS_LEFT = 0`, is the model's inference (notes/assumptions/12.md,
15.md). -/
def Obligations.DecodeMapSealsTheMap : Prop :=
  ∀ (s : State) (i : MapIndex) (ts : List Tok), s.env.cfg.wf → s.smd.grid.length = s.env.cfg.gridCap →
    StreamOk s.env i.toNat ts → PlayerInside s.env i.toNat ts →
    (expand ts)[playerIndex s.env i.toNat ts]? = some .empty →
    exec (.decodeMap (i.setWidth 32)) s = .next (s.put (decodeSealed (recordRead s.env i.toNat ts s.smd)))

/-- R118, R146: a record that is whole but whose player is outside the map raises InvalidPlayerPosition(E). What
`ROW`, `COL` and `CUR_BYTE` hold afterwards is the model's inference (notes/assumptions/12.md, 15.md). -/
def Obligations.DecodeMapPlayerOutside : Prop :=
  ∀ (s : State) (i : MapIndex) (ts : List Tok), s.env.cfg.wf → s.smd.grid.length = s.env.cfg.gridCap →
    StreamOk s.env i.toNat ts → ¬ PlayerInside s.env i.toNat ts →
    exec (.decodeMap (i.setWidth 32)) s = .next (s.put
      (decodeFailed .invalidPlayerPosition i (recordEnd s.env i.toNat ts) (recordRead s.env i.toNat ts s.smd)))

/-- R119, R146: a record that is whole but whose player is not on an Empty cell raises InvalidPlayerPlacement(E). What
`ROW`, `COL` and `CUR_BYTE` hold afterwards is the model's inference (notes/assumptions/12.md, 15.md). -/
def Obligations.DecodeMapPlayerNotOnEmpty : Prop :=
  ∀ (s : State) (i : MapIndex) (ts : List Tok), s.env.cfg.wf → s.smd.grid.length = s.env.cfg.gridCap →
    StreamOk s.env i.toNat ts → PlayerInside s.env i.toNat ts →
    (expand ts)[playerIndex s.env i.toNat ts]? ≠ some .empty →
    exec (.decodeMap (i.setWidth 32)) s = .next (s.put
      (decodeFailed .invalidPlayerPlacement i (recordEnd s.env i.toNat ts) (recordRead s.env i.toNat ts s.smd)))

/-- R106, R112, R146: DECODE_MAP of an index past the table raises IndexOutOfRange before any read. -/
def Obligations.DecodeMapIndexOutOfRange : Prop :=
  ∀ (s : State) (i : MapIndex), s.env.cfg.mapCount ≤ i.toNat →
    exec (.decodeMap (i.setWidth 32)) s = .next (s.put
      (decodeFailed .indexOutOfRange i (s.env.cfg.tableBase + 2 * i.toNat) (decodeBegun s.smd)))

/-- R109, R112, R146: DECODE_MAP raises BufferExhausted at the first byte of its table entry or of its prolog that is past
the buffer; `SIZE_X` is written where only `size_y` is past it (R142). -/
def Obligations.DecodeMapTableOrPrologCut : Prop :=
  ∀ (s : State) (i : MapIndex), i.toNat < s.env.cfg.mapCount →
    (s.env.cfg.bufLen ≤ s.env.cfg.tableBase + 2 * i.toNat + 1 →
      exec (.decodeMap (i.setWidth 32)) s = .next (s.put (decodeFailed .bufferExhausted i
        (if s.env.cfg.bufLen ≤ s.env.cfg.tableBase + 2 * i.toNat then s.env.cfg.tableBase + 2 * i.toNat
          else s.env.cfg.tableBase + 2 * i.toNat + 1) (decodeBegun s.smd)))) ∧
    (s.env.cfg.tableBase + 2 * i.toNat + 1 < s.env.cfg.bufLen → s.env.cfg.bufLen ≤ recordBase s.env i.toNat →
      exec (.decodeMap (i.setWidth 32)) s = .next (s.put (decodeFailed .bufferExhausted i
        (recordBase s.env i.toNat) (decodeBegun s.smd)))) ∧
    (s.env.cfg.tableBase + 2 * i.toNat + 1 < s.env.cfg.bufLen → s.env.cfg.bufLen = recordBase s.env i.toNat + 1 →
      exec (.decodeMap (i.setWidth 32)) s = .next (s.put (decodeFailed .bufferExhausted i
        (recordBase s.env i.toNat + 1) { decodeBegun s.smd with sizeX := recordX s.env i.toNat })))

/-- R113, R146: DECODE_MAP raises InvalidDimensions(S) when size_x or size_y reaches its bound, before any bit of the
bitstream is read: the cursor does not move. -/
def Obligations.DecodeMapInvalidDimensions : Prop :=
  ∀ (s : State) (i : MapIndex), EntryInBuffer s.env i.toNat → recordBase s.env i.toNat + 1 < s.env.cfg.bufLen →
    (s.env.cfg.maxX ≤ (recordX s.env i.toNat).toNat ∨ s.env.cfg.maxY ≤ (recordY s.env i.toNat).toNat) →
    exec (.decodeMap (i.setWidth 32)) s = .next (s.put (decodeFailed .invalidDimensions i
      (recordBase s.env i.toNat)
      { decodeBegun s.smd with sizeX := recordX s.env i.toNat, sizeY := recordY s.env i.toNat }))

/-- R121, R112, R142: a record with a zero dimension passes the dimension check, makes no cell step, and raises
InvalidPlayerPosition(S + 2) with the epilog read, or BufferExhausted where an epilog byte is past the buffer. What `ROW`
holds afterwards, and `CUR_BYTE` while `BITS_LEFT = 0`, is the model's inference (notes/assumptions/12.md, 15.md). -/
def Obligations.DecodeMapZeroDimension : Prop :=
  ∀ (s : State) (i : MapIndex), s.env.cfg.wf → PrologOk s.env i.toNat →
    (recordX s.env i.toNat = 0#8 ∨ recordY s.env i.toNat = 0#8) →
    exec (.decodeMap (i.setWidth 32)) s = .next (s.put (
      if recordBase s.env i.toNat + 3 < s.env.cfg.bufLen then
        decodeFailed .invalidPlayerPosition i (recordBase s.env i.toNat + 2)
          (epilogRead s.env (recordBase s.env i.toNat + 2) (noCellsRead s.env i.toNat s.smd))
      else
        decodeFailed .bufferExhausted i s.env.cfg.bufLen
          (epilogCut s.env (recordBase s.env i.toNat + 2) (noCellsRead s.env i.toNat s.smd))))

/-- R120, R86, R98, R142, R146: where the buffer ends before the tokens give `size_x × size_y` cells, DECODE_MAP
raises BufferExhausted(BUF_LEN), no Map is sealed, and the registers are as the writes before the raise left them. What
`ROW` and `COL` hold afterwards, and `CUR_BYTE` while `BITS_LEFT = 0`, is the model's inference (notes/assumptions/12.md,
15.md). -/
def Obligations.DecodeMapBitstreamCut : Prop :=
  ∀ (s : State) (i : MapIndex) (ts : List Tok), s.env.cfg.wf → s.smd.grid.length = s.env.cfg.gridCap →
    PrologOk s.env i.toNat → (∀ tok ∈ ts, tokOk tok) →
    (expand ts).length < (recordX s.env i.toNat).toNat * (recordY s.env i.toNat).toNat →
    StreamHas s.env (8 * (recordBase s.env i.toNat + 2)) (toksBits ts) →
    (∀ tok, tokOk tok →
      ¬ StreamHas s.env (8 * (recordBase s.env i.toNat + 2) + (toksBits ts).length) (tokBits tok)) →
    exec (.decodeMap (i.setWidth 32)) s = .next (s.put
      (decodeFailed .bufferExhausted i s.env.cfg.bufLen (streamCut s.env i.toNat ts s.smd)))

/-- R112 step 5, R142, R146: where the bitstream is whole and an epilog byte is past the buffer, DECODE_MAP raises
BufferExhausted at that byte, no Map is sealed, and the registers are as the writes before the raise left them. What `ROW`
and `COL` hold afterwards, and `CUR_BYTE` while `BITS_LEFT = 0`, is the model's inference (notes/assumptions/12.md,
15.md). -/
def Obligations.DecodeMapEpilogCut : Prop :=
  ∀ (s : State) (i : MapIndex) (ts : List Tok), s.env.cfg.wf → s.smd.grid.length = s.env.cfg.gridCap →
    PrologOk s.env i.toNat → Supplies ts ((recordX s.env i.toNat).toNat * (recordY s.env i.toNat).toNat) →
    StreamHas s.env (8 * (recordBase s.env i.toNat + 2)) (toksBits ts) →
    s.env.cfg.bufLen ≤ recordEnd s.env i.toNat ts + 1 →
    exec (.decodeMap (i.setWidth 32)) s = .next (s.put (decodeFailed .bufferExhausted i s.env.cfg.bufLen
      (epilogCut s.env (recordEnd s.env i.toNat ts) (cellsRead s.env i.toNat ts s.smd))))

/-- R120, R123, R124: every DECODE_MAP ends, with the core closed and `MAP_IDX` = NO_MAP, and either with OK, a sealed
Map and a clear status, or with an error, recorded as it is answered, and no Map, so that READ_MAP is refused. That
the refused READ_MAP answers a next state is the model's inference (notes/assumptions/3.md). -/
def Obligations.DecodeMapEndsSealedOrFailed : Prop :=
  ∀ (s : State) (i : MapIndex), s.env.cfg.wf → s.smd.grid.length = s.env.cfg.gridCap →
    ∃ t : State, exec (.decodeMap (i.setWidth 32)) s = .next t ∧ t.smd.ready = false ∧ t.smd.mapIdx = noMap ∧
      ((t.smd.response = some (.ok .none) ∧ t.smd.mapValid = true ∧ t.smd.err = false) ∨
       (∃ kind a, kind ≠ .none ∧ t.smd = decodeFailed kind i a t.smd ∧ t.smd.mapValid = false ∧
         ∀ arg, exec (.readMap arg) t = .next (t.put { t.smd with
           response := some (.refused .noMap), refusalMark := true })))

/-- R126: the result of DECODE_MAP, its response and on success the Map output, depends only on the configuration and the
index, not on any earlier command. -/
def Obligations.DecodeMapIgnoresHistory : Prop :=
  ∀ (s u : State) (i : MapIndex), s.env = u.env → s.env.cfg.wf →
    s.smd.grid.length = s.env.cfg.gridCap → u.smd.grid.length = u.env.cfg.gridCap →
    ∃ t v : State, exec (.decodeMap (i.setWidth 32)) s = .next t ∧ exec (.decodeMap (i.setWidth 32)) u = .next v ∧
      t.smd.response = v.smd.response ∧ t.smd.mapValid = v.smd.mapValid ∧
      (t.smd.mapValid = true →
        t.smd.sizeX = v.smd.sizeX ∧ t.smd.sizeY = v.smd.sizeY ∧ t.smd.manX = v.smd.manX ∧ t.smd.manY = v.smd.manY ∧
        t.smd.grid.take (t.smd.sizeX.toNat * t.smd.sizeY.toNat) =
          v.smd.grid.take (v.smd.sizeX.toNat * v.smd.sizeY.toNat))

/-- R164: a host that drives the primitives over a map that DECODE_MAP seals gets the same Map: the two sizes, the cells in
order and the player's position. -/
def Obligations.PrimitiveProtocolMatchesDecodeMap : Prop :=
  ∀ (s t : State) (i : MapIndex), s.env.cfg.wf → s.smd.grid.length = s.env.cfg.gridCap →
    exec (.decodeMap (i.setWidth 32)) s = .next t → t.smd.mapValid = true →
    ∃ (base : Offset) (s1 s2 s3 s4 s5 s6 s7 s8 : State),
      exec (.resolve (i.setWidth 32)) s = .next s1 ∧ s1.smd.response = some (.ok (.offset base)) ∧
      exec (.init base) s1 = .next s2 ∧
      exec (.readByte 0#32) s2 = .next s3 ∧ s3.smd.response = some (.ok (.byte t.smd.sizeX)) ∧
      exec (.readByte 0#32) s3 = .next s4 ∧ s4.smd.response = some (.ok (.byte t.smd.sizeY)) ∧
      exec (.init (base + 2#32)) s4 = .next s5 ∧
      nextCells (t.smd.sizeX.toNat * t.smd.sizeY.toNat) s5 =
        some (t.smd.grid.take (t.smd.sizeX.toNat * t.smd.sizeY.toNat), s6) ∧
      exec (.readByte 0#32) s6 = .next s7 ∧ s7.smd.response = some (.ok (.byte t.smd.manX)) ∧
      exec (.readByte 0#32) s7 = .next s8 ∧ s8.smd.response = some (.ok (.byte t.smd.manY))

/-! ### Rules about the whole machine -/

/-- R29, R27: no instruction but RESET and DECODE_MAP writes the Map output or `MAP_VALID`. -/
def Obligations.SealedMapIsImmutable : Prop :=
  ∀ (i : Instr) (s t : State), exec i s = .next t →
    (∀ arg, i ≠ .reset arg) → (∀ arg, i ≠ .decodeMap arg) →
    t.smd.mapValid = s.smd.mapValid ∧ t.smd.sizeX = s.smd.sizeX ∧ t.smd.sizeY = s.smd.sizeY ∧
    t.smd.grid = s.smd.grid ∧ t.smd.manX = s.smd.manX ∧ t.smd.manY = s.smd.manY ∧
    t.smd.row = s.smd.row ∧ t.smd.col = s.smd.col ∧ t.smd.mapIdx = s.smd.mapIdx

/-- R143, R144, R145: while `ERR = 1` no command but RESET, INIT and DECODE_MAP changes the status registers or the core:
the first error since the last clear stays recorded. -/
def Obligations.FirstErrorStaysRecorded : Prop :=
  ∀ (i : Instr) (w : BitVec 36) (s t : State), encode i = .command w → exec i s = .next t → s.smd.err = true →
    (∀ arg, i ≠ .reset arg) → (∀ start, i ≠ .init start) → (∀ arg, i ≠ .decodeMap arg) →
    t.smd = { s.smd with response := t.smd.response, refusalMark := t.smd.refusalMark }

/-- R24, R29, R30: the machine's invariant holds at reset, where every instance stands at a boundary between commands.
The configuration of the reset state is the source's (notes/assumptions/4.md). -/
def Obligations.InvariantHoldsAtReset : Prop := Inv State.reset ∧ AtBoundary State.reset

/-- R24, R29, R30, R26, R27: every step keeps the invariant, and a step between commands ends between commands. Its
clauses on the buffer's canonical form, on the configuration and its grid store, and on the token, its run length and the
boundary between commands are the model's own (notes/assumptions/2.md, 4.md, 9.md). -/
def Obligations.StepKeepsInvariant : Prop :=
  ∀ s t : State, step s = .next t → Inv s → Inv t ∧ (AtBoundary s → AtBoundary t)

/-- R150, R124: in a state that meets the invariant every step answers a next state: no command, no symbol and no
stream stops the machine. That a refused command answers a next state is the model's inference
(notes/assumptions/3.md). -/
def Obligations.StepNeverStops : Prop :=
  ∀ s : State, Inv s → HostReady s → ∃ t : State, step s = .next t

/-- R35, R20, R28: no instruction reads a register that holds no value: instances that agree on the registers that do
hold a value answer alike, and agree on them again. The values at reset that it makes irrelevant are the model's
choice (notes/assumptions/1.md). -/
def Obligations.RegistersWithoutValueAreNotRead : Prop :=
  ∀ (i : Instr) (s : State) (r : Smd), valued r = valued s.smd → r.grid.length = s.smd.grid.length →
    (∀ t, exec i s = .next t → ∃ r', exec i (s.put r) = .next (s.put r') ∧
      valued r' = valued t.smd ∧ r'.grid.length = t.smd.grid.length) ∧
    (∀ f, exec i s = .fault f → exec i (s.put r) = .fault f)
end

