-- ==== Sys2Proof/Laws/Memory.lean ====
section
/-! SUPPORT. The buffer: a write keeps the canonical form, a read after a write gives what was written there and what was
there before elsewhere, and buffers in canonical form that read alike are equal. -/

namespace Sys2Proof.Machine

@[simp] theorem Memory.read_nil (k : Nat) : Memory.read [] k = Memory.unlisted := rfl

theorem Memory.wfFrom_cons {lo a : Nat} {b : Byte} {m : Memory} :
    Memory.wfFrom lo ((a, b) :: m) = true ↔ lo ≤ a ∧ b ≠ Memory.unlisted ∧ Memory.wfFrom (a + 1) m = true := by
  simp [Memory.wfFrom, and_assoc]

theorem Memory.wfFrom_mono {lo lo' : Nat} (h : lo' ≤ lo) {m : Memory} (hm : Memory.wfFrom lo m = true) :
    Memory.wfFrom lo' m = true := by
  cases m with
  | nil => rfl
  | cons x m =>
    obtain ⟨a, b⟩ := x
    rw [Memory.wfFrom_cons] at hm ⊢
    exact ⟨h.trans hm.1, hm.2⟩

/-- An address below every entry reads as an unlisted one. -/
theorem Memory.read_below {lo : Nat} {m : Memory} (hm : Memory.wfFrom lo m = true) {k : Nat} (hk : k < lo) :
    m.read k = Memory.unlisted := by
  induction m generalizing lo with
  | nil => rfl
  | cons x m ih =>
    obtain ⟨a, b⟩ := x
    rw [Memory.wfFrom_cons] at hm
    have hne : a ≠ k := by omega
    simp only [Memory.read, if_neg hne]
    exact ih hm.2.2 (by omega)

theorem Memory.write_wfFrom {lo : Nat} {m : Memory} (hm : Memory.wfFrom lo m = true) {k : Nat} (hk : lo ≤ k) (v : Byte) :
    Memory.wfFrom lo (m.write k v) = true := by
  induction m generalizing lo with
  | nil =>
    unfold Memory.write
    split
    · rfl
    · rw [Memory.wfFrom_cons]; exact ⟨hk, ‹_›, rfl⟩
  | cons x m ih =>
    obtain ⟨a, b⟩ := x
    have hm' := Memory.wfFrom_cons.mp hm
    unfold Memory.write
    split
    · rw [Memory.wfFrom_cons]; exact ⟨hm'.1, hm'.2.1, ih hm'.2.2 (by omega)⟩
    · split
      · subst a
        split
        · exact Memory.wfFrom_mono (by omega) hm'.2.2
        · rw [Memory.wfFrom_cons]; exact ⟨hk, ‹_›, hm'.2.2⟩
      · split
        · exact hm
        · rw [Memory.wfFrom_cons, Memory.wfFrom_cons]
          exact ⟨hk, ‹_›, by omega, hm'.2.1, hm'.2.2⟩

/-- Every write keeps the canonical form. -/
theorem Memory.write_wf {m : Memory} (hm : m.wf = true) (k : Nat) (v : Byte) : (m.write k v).wf = true :=
  Memory.write_wfFrom hm (Nat.zero_le k) v

theorem Memory.read_write_from {lo : Nat} {m : Memory} (hm : Memory.wfFrom lo m = true) (k : Nat) (v : Byte) (j : Nat) :
    (m.write k v).read j = if j = k then v else m.read j := by
  induction m generalizing lo with
  | nil =>
    unfold Memory.write
    split
    · subst v; simp
    · simp only [Memory.read]; split <;> split <;> simp_all
  | cons x m ih =>
    obtain ⟨a, b⟩ := x
    have hm' := Memory.wfFrom_cons.mp hm
    unfold Memory.write
    split
    · simp only [Memory.read, ih hm'.2.2]
      split <;> split <;> first | rfl | omega
    · split
      · subst a
        split
        · subst v
          by_cases hj : j = k
          · subst j; simp [Memory.read_below hm'.2.2]
          · have : k ≠ j := fun h => hj h.symm
            simp [Memory.read, hj, this]
        · simp only [Memory.read]
          by_cases hj : j = k
          · simp [hj]
          · have : k ≠ j := fun h => hj h.symm
            simp [hj, this]
      · split
        · subst v
          by_cases hj : j = k
          · subst j
            have : a ≠ k := ‹_›
            simp [Memory.read, this, Memory.read_below hm'.2.2 (show k < a + 1 by omega)]
          · simp [hj]
        · simp only [Memory.read]
          by_cases hj : j = k
          · simp [hj]
          · have : k ≠ j := fun h => hj h.symm
            simp [hj, this]

/-- A read after a write. -/
theorem Memory.read_write {m : Memory} (hm : m.wf = true) (k : Nat) (v : Byte) (j : Nat) :
    (m.write k v).read j = if j = k then v else m.read j := Memory.read_write_from hm k v j

/-- Buffers in canonical form that read alike everywhere are equal. -/
theorem Memory.ext_from {lo : Nat} {m n : Memory} (hm : Memory.wfFrom lo m = true) (hn : Memory.wfFrom lo n = true)
    (h : ∀ k, m.read k = n.read k) : m = n := by
  induction m generalizing lo n with
  | nil =>
    cases n with
    | nil => rfl
    | cons y n =>
      obtain ⟨c, d⟩ := y
      have hn' := Memory.wfFrom_cons.mp hn
      have := h c
      simp only [Memory.read, if_true] at this
      exact absurd this.symm hn'.2.1
  | cons x m ih =>
    obtain ⟨a, b⟩ := x
    have hm' := Memory.wfFrom_cons.mp hm
    cases n with
    | nil =>
      have := h a
      simp only [Memory.read, if_true] at this
      exact absurd this hm'.2.1
    | cons y n =>
      obtain ⟨c, d⟩ := y
      have hn' := Memory.wfFrom_cons.mp hn
      have hac : a = c := by
        rcases Nat.lt_trichotomy a c with hlt | heq | hgt
        · have := h a
          rw [Memory.read_below (lo := c) (m := (c, d) :: n)
            (Memory.wfFrom_cons.mpr ⟨le_refl c, hn'.2⟩) hlt] at this
          simp only [Memory.read, if_true] at this
          exact absurd this hm'.2.1
        · exact heq
        · have := h c
          rw [Memory.read_below (lo := a) (m := (a, b) :: m)
            (Memory.wfFrom_cons.mpr ⟨le_refl a, hm'.2⟩) hgt] at this
          simp only [Memory.read, if_true] at this
          exact absurd this.symm hn'.2.1
      subst c
      have hbd : b = d := by
        have := h a
        simpa only [Memory.read, if_true] using this
      subst d
      congr 1
      refine ih hm'.2.2 hn'.2.2 fun k => ?_
      by_cases hk : a = k
      · subst k
        rw [Memory.read_below hm'.2.2 (Nat.lt_succ_self a), Memory.read_below hn'.2.2 (Nat.lt_succ_self a)]
      · have := h k
        simpa only [Memory.read, if_neg hk] using this

end Sys2Proof.Machine
end

