-- ==== Sys2Proof/Laws/State.lean ====
section
/-! SUPPORT. One lemma per field per update of an instance and of the state, true by unfolding, so that no later proof
unfolds a record update. -/

namespace Sys2Proof.Machine

/-! ### respond -/

@[simp] theorem respond_bytePtr (d : Data) (r : Smd) : (respond d r).bytePtr = r.bytePtr := rfl
@[simp] theorem respond_bitsLeft (d : Data) (r : Smd) : (respond d r).bitsLeft = r.bitsLeft := rfl
@[simp] theorem respond_curByte (d : Data) (r : Smd) : (respond d r).curByte = r.curByte := rfl
@[simp] theorem respond_pending (d : Data) (r : Smd) : (respond d r).pending = r.pending := rfl
@[simp] theorem respond_cached (d : Data) (r : Smd) : (respond d r).cached = r.cached := rfl
@[simp] theorem respond_ready (d : Data) (r : Smd) : (respond d r).ready = r.ready := rfl
@[simp] theorem respond_mapIdx (d : Data) (r : Smd) : (respond d r).mapIdx = r.mapIdx := rfl
@[simp] theorem respond_sizeX (d : Data) (r : Smd) : (respond d r).sizeX = r.sizeX := rfl
@[simp] theorem respond_sizeY (d : Data) (r : Smd) : (respond d r).sizeY = r.sizeY := rfl
@[simp] theorem respond_manX (d : Data) (r : Smd) : (respond d r).manX = r.manX := rfl
@[simp] theorem respond_manY (d : Data) (r : Smd) : (respond d r).manY = r.manY := rfl
@[simp] theorem respond_row (d : Data) (r : Smd) : (respond d r).row = r.row := rfl
@[simp] theorem respond_col (d : Data) (r : Smd) : (respond d r).col = r.col := rfl
@[simp] theorem respond_grid (d : Data) (r : Smd) : (respond d r).grid = r.grid := rfl
@[simp] theorem respond_mapValid (d : Data) (r : Smd) : (respond d r).mapValid = r.mapValid := rfl
@[simp] theorem respond_err (d : Data) (r : Smd) : (respond d r).err = r.err := rfl
@[simp] theorem respond_errKind (d : Data) (r : Smd) : (respond d r).errKind = r.errKind := rfl
@[simp] theorem respond_errMap (d : Data) (r : Smd) : (respond d r).errMap = r.errMap := rfl
@[simp] theorem respond_errOffset (d : Data) (r : Smd) : (respond d r).errOffset = r.errOffset := rfl
@[simp] theorem respond_token (d : Data) (r : Smd) : (respond d r).token = r.token := rfl
@[simp] theorem respond_response (d : Data) (r : Smd) : (respond d r).response = some (.ok d) := rfl
@[simp] theorem respond_refusalMark (d : Data) (r : Smd) : (respond d r).refusalMark = r.refusalMark := rfl

/-! ### refuse -/

@[simp] theorem refuse_bytePtr (why : Reason) (r : Smd) : (refuse why r).bytePtr = r.bytePtr := rfl
@[simp] theorem refuse_bitsLeft (why : Reason) (r : Smd) : (refuse why r).bitsLeft = r.bitsLeft := rfl
@[simp] theorem refuse_curByte (why : Reason) (r : Smd) : (refuse why r).curByte = r.curByte := rfl
@[simp] theorem refuse_pending (why : Reason) (r : Smd) : (refuse why r).pending = r.pending := rfl
@[simp] theorem refuse_cached (why : Reason) (r : Smd) : (refuse why r).cached = r.cached := rfl
@[simp] theorem refuse_ready (why : Reason) (r : Smd) : (refuse why r).ready = r.ready := rfl
@[simp] theorem refuse_mapIdx (why : Reason) (r : Smd) : (refuse why r).mapIdx = r.mapIdx := rfl
@[simp] theorem refuse_sizeX (why : Reason) (r : Smd) : (refuse why r).sizeX = r.sizeX := rfl
@[simp] theorem refuse_sizeY (why : Reason) (r : Smd) : (refuse why r).sizeY = r.sizeY := rfl
@[simp] theorem refuse_manX (why : Reason) (r : Smd) : (refuse why r).manX = r.manX := rfl
@[simp] theorem refuse_manY (why : Reason) (r : Smd) : (refuse why r).manY = r.manY := rfl
@[simp] theorem refuse_row (why : Reason) (r : Smd) : (refuse why r).row = r.row := rfl
@[simp] theorem refuse_col (why : Reason) (r : Smd) : (refuse why r).col = r.col := rfl
@[simp] theorem refuse_grid (why : Reason) (r : Smd) : (refuse why r).grid = r.grid := rfl
@[simp] theorem refuse_mapValid (why : Reason) (r : Smd) : (refuse why r).mapValid = r.mapValid := rfl
@[simp] theorem refuse_err (why : Reason) (r : Smd) : (refuse why r).err = r.err := rfl
@[simp] theorem refuse_errKind (why : Reason) (r : Smd) : (refuse why r).errKind = r.errKind := rfl
@[simp] theorem refuse_errMap (why : Reason) (r : Smd) : (refuse why r).errMap = r.errMap := rfl
@[simp] theorem refuse_errOffset (why : Reason) (r : Smd) : (refuse why r).errOffset = r.errOffset := rfl
@[simp] theorem refuse_token (why : Reason) (r : Smd) : (refuse why r).token = r.token := rfl
@[simp] theorem refuse_response (why : Reason) (r : Smd) : (refuse why r).response = some (.refused why) := rfl
@[simp] theorem refuse_refusalMark (why : Reason) (r : Smd) : (refuse why r).refusalMark = true := rfl

/-! ### repeatError -/

@[simp] theorem repeatError_bytePtr (r : Smd) : (repeatError r).bytePtr = r.bytePtr := rfl
@[simp] theorem repeatError_bitsLeft (r : Smd) : (repeatError r).bitsLeft = r.bitsLeft := rfl
@[simp] theorem repeatError_curByte (r : Smd) : (repeatError r).curByte = r.curByte := rfl
@[simp] theorem repeatError_pending (r : Smd) : (repeatError r).pending = r.pending := rfl
@[simp] theorem repeatError_cached (r : Smd) : (repeatError r).cached = r.cached := rfl
@[simp] theorem repeatError_ready (r : Smd) : (repeatError r).ready = r.ready := rfl
@[simp] theorem repeatError_mapIdx (r : Smd) : (repeatError r).mapIdx = r.mapIdx := rfl
@[simp] theorem repeatError_sizeX (r : Smd) : (repeatError r).sizeX = r.sizeX := rfl
@[simp] theorem repeatError_sizeY (r : Smd) : (repeatError r).sizeY = r.sizeY := rfl
@[simp] theorem repeatError_manX (r : Smd) : (repeatError r).manX = r.manX := rfl
@[simp] theorem repeatError_manY (r : Smd) : (repeatError r).manY = r.manY := rfl
@[simp] theorem repeatError_row (r : Smd) : (repeatError r).row = r.row := rfl
@[simp] theorem repeatError_col (r : Smd) : (repeatError r).col = r.col := rfl
@[simp] theorem repeatError_grid (r : Smd) : (repeatError r).grid = r.grid := rfl
@[simp] theorem repeatError_mapValid (r : Smd) : (repeatError r).mapValid = r.mapValid := rfl
@[simp] theorem repeatError_err (r : Smd) : (repeatError r).err = r.err := rfl
@[simp] theorem repeatError_errKind (r : Smd) : (repeatError r).errKind = r.errKind := rfl
@[simp] theorem repeatError_errMap (r : Smd) : (repeatError r).errMap = r.errMap := rfl
@[simp] theorem repeatError_errOffset (r : Smd) : (repeatError r).errOffset = r.errOffset := rfl
@[simp] theorem repeatError_token (r : Smd) : (repeatError r).token = r.token := rfl
@[simp] theorem repeatError_response (r : Smd) : (repeatError r).response = some (.err r.errKind r.errMap r.errOffset) := rfl
@[simp] theorem repeatError_refusalMark (r : Smd) : (repeatError r).refusalMark = r.refusalMark := rfl

/-! ### clearStatus -/

@[simp] theorem clearStatus_bytePtr (r : Smd) : (clearStatus r).bytePtr = r.bytePtr := rfl
@[simp] theorem clearStatus_bitsLeft (r : Smd) : (clearStatus r).bitsLeft = r.bitsLeft := rfl
@[simp] theorem clearStatus_curByte (r : Smd) : (clearStatus r).curByte = r.curByte := rfl
@[simp] theorem clearStatus_pending (r : Smd) : (clearStatus r).pending = r.pending := rfl
@[simp] theorem clearStatus_cached (r : Smd) : (clearStatus r).cached = r.cached := rfl
@[simp] theorem clearStatus_ready (r : Smd) : (clearStatus r).ready = r.ready := rfl
@[simp] theorem clearStatus_mapIdx (r : Smd) : (clearStatus r).mapIdx = r.mapIdx := rfl
@[simp] theorem clearStatus_sizeX (r : Smd) : (clearStatus r).sizeX = r.sizeX := rfl
@[simp] theorem clearStatus_sizeY (r : Smd) : (clearStatus r).sizeY = r.sizeY := rfl
@[simp] theorem clearStatus_manX (r : Smd) : (clearStatus r).manX = r.manX := rfl
@[simp] theorem clearStatus_manY (r : Smd) : (clearStatus r).manY = r.manY := rfl
@[simp] theorem clearStatus_row (r : Smd) : (clearStatus r).row = r.row := rfl
@[simp] theorem clearStatus_col (r : Smd) : (clearStatus r).col = r.col := rfl
@[simp] theorem clearStatus_grid (r : Smd) : (clearStatus r).grid = r.grid := rfl
@[simp] theorem clearStatus_mapValid (r : Smd) : (clearStatus r).mapValid = r.mapValid := rfl
@[simp] theorem clearStatus_err (r : Smd) : (clearStatus r).err = false := rfl
@[simp] theorem clearStatus_errKind (r : Smd) : (clearStatus r).errKind = .none := rfl
@[simp] theorem clearStatus_errMap (r : Smd) : (clearStatus r).errMap = noMap := rfl
@[simp] theorem clearStatus_errOffset (r : Smd) : (clearStatus r).errOffset = 0#32 := rfl
@[simp] theorem clearStatus_token (r : Smd) : (clearStatus r).token = r.token := rfl
@[simp] theorem clearStatus_response (r : Smd) : (clearStatus r).response = r.response := rfl
@[simp] theorem clearStatus_refusalMark (r : Smd) : (clearStatus r).refusalMark = r.refusalMark := rfl

/-! ### startCore -/

@[simp] theorem startCore_bytePtr (a : Offset) (r : Smd) : (startCore a r).bytePtr = a := rfl
@[simp] theorem startCore_bitsLeft (a : Offset) (r : Smd) : (startCore a r).bitsLeft = 0#4 := rfl
@[simp] theorem startCore_curByte (a : Offset) (r : Smd) : (startCore a r).curByte = r.curByte := rfl
@[simp] theorem startCore_pending (a : Offset) (r : Smd) : (startCore a r).pending = 0#4 := rfl
@[simp] theorem startCore_cached (a : Offset) (r : Smd) : (startCore a r).cached = none := rfl
@[simp] theorem startCore_ready (a : Offset) (r : Smd) : (startCore a r).ready = true := rfl
@[simp] theorem startCore_mapIdx (a : Offset) (r : Smd) : (startCore a r).mapIdx = r.mapIdx := rfl
@[simp] theorem startCore_sizeX (a : Offset) (r : Smd) : (startCore a r).sizeX = r.sizeX := rfl
@[simp] theorem startCore_sizeY (a : Offset) (r : Smd) : (startCore a r).sizeY = r.sizeY := rfl
@[simp] theorem startCore_manX (a : Offset) (r : Smd) : (startCore a r).manX = r.manX := rfl
@[simp] theorem startCore_manY (a : Offset) (r : Smd) : (startCore a r).manY = r.manY := rfl
@[simp] theorem startCore_row (a : Offset) (r : Smd) : (startCore a r).row = r.row := rfl
@[simp] theorem startCore_col (a : Offset) (r : Smd) : (startCore a r).col = r.col := rfl
@[simp] theorem startCore_grid (a : Offset) (r : Smd) : (startCore a r).grid = r.grid := rfl
@[simp] theorem startCore_mapValid (a : Offset) (r : Smd) : (startCore a r).mapValid = r.mapValid := rfl
@[simp] theorem startCore_err (a : Offset) (r : Smd) : (startCore a r).err = r.err := rfl
@[simp] theorem startCore_errKind (a : Offset) (r : Smd) : (startCore a r).errKind = r.errKind := rfl
@[simp] theorem startCore_errMap (a : Offset) (r : Smd) : (startCore a r).errMap = r.errMap := rfl
@[simp] theorem startCore_errOffset (a : Offset) (r : Smd) : (startCore a r).errOffset = r.errOffset := rfl
@[simp] theorem startCore_token (a : Offset) (r : Smd) : (startCore a r).token = .idle := rfl
@[simp] theorem startCore_response (a : Offset) (r : Smd) : (startCore a r).response = r.response := rfl
@[simp] theorem startCore_refusalMark (a : Offset) (r : Smd) : (startCore a r).refusalMark = r.refusalMark := rfl

/-! ### endDecode -/

@[simp] theorem endDecode_bytePtr (r : Smd) : (endDecode r).bytePtr = r.bytePtr := rfl
@[simp] theorem endDecode_bitsLeft (r : Smd) : (endDecode r).bitsLeft = r.bitsLeft := rfl
@[simp] theorem endDecode_curByte (r : Smd) : (endDecode r).curByte = r.curByte := rfl
@[simp] theorem endDecode_pending (r : Smd) : (endDecode r).pending = r.pending := rfl
@[simp] theorem endDecode_cached (r : Smd) : (endDecode r).cached = r.cached := rfl
@[simp] theorem endDecode_ready (r : Smd) : (endDecode r).ready = false := rfl
@[simp] theorem endDecode_mapIdx (r : Smd) : (endDecode r).mapIdx = noMap := rfl
@[simp] theorem endDecode_sizeX (r : Smd) : (endDecode r).sizeX = r.sizeX := rfl
@[simp] theorem endDecode_sizeY (r : Smd) : (endDecode r).sizeY = r.sizeY := rfl
@[simp] theorem endDecode_manX (r : Smd) : (endDecode r).manX = r.manX := rfl
@[simp] theorem endDecode_manY (r : Smd) : (endDecode r).manY = r.manY := rfl
@[simp] theorem endDecode_row (r : Smd) : (endDecode r).row = r.row := rfl
@[simp] theorem endDecode_col (r : Smd) : (endDecode r).col = r.col := rfl
@[simp] theorem endDecode_grid (r : Smd) : (endDecode r).grid = r.grid := rfl
@[simp] theorem endDecode_mapValid (r : Smd) : (endDecode r).mapValid = r.mapValid := rfl
@[simp] theorem endDecode_err (r : Smd) : (endDecode r).err = r.err := rfl
@[simp] theorem endDecode_errKind (r : Smd) : (endDecode r).errKind = r.errKind := rfl
@[simp] theorem endDecode_errMap (r : Smd) : (endDecode r).errMap = r.errMap := rfl
@[simp] theorem endDecode_errOffset (r : Smd) : (endDecode r).errOffset = r.errOffset := rfl
@[simp] theorem endDecode_token (r : Smd) : (endDecode r).token = r.token := rfl
@[simp] theorem endDecode_response (r : Smd) : (endDecode r).response = r.response := rfl
@[simp] theorem endDecode_refusalMark (r : Smd) : (endDecode r).refusalMark = r.refusalMark := rfl

/-! ### recordError -/

@[simp] theorem recordError_bytePtr (k : ErrKind) (m : MapIndex) (a : Nat) (r : Smd) : (recordError k m a r).bytePtr = r.bytePtr := rfl
@[simp] theorem recordError_bitsLeft (k : ErrKind) (m : MapIndex) (a : Nat) (r : Smd) : (recordError k m a r).bitsLeft = r.bitsLeft := rfl
@[simp] theorem recordError_curByte (k : ErrKind) (m : MapIndex) (a : Nat) (r : Smd) : (recordError k m a r).curByte = r.curByte := rfl
@[simp] theorem recordError_pending (k : ErrKind) (m : MapIndex) (a : Nat) (r : Smd) : (recordError k m a r).pending = r.pending := rfl
@[simp] theorem recordError_cached (k : ErrKind) (m : MapIndex) (a : Nat) (r : Smd) : (recordError k m a r).cached = r.cached := rfl
@[simp] theorem recordError_ready (k : ErrKind) (m : MapIndex) (a : Nat) (r : Smd) : (recordError k m a r).ready = r.ready := rfl
@[simp] theorem recordError_mapIdx (k : ErrKind) (m : MapIndex) (a : Nat) (r : Smd) : (recordError k m a r).mapIdx = r.mapIdx := rfl
@[simp] theorem recordError_sizeX (k : ErrKind) (m : MapIndex) (a : Nat) (r : Smd) : (recordError k m a r).sizeX = r.sizeX := rfl
@[simp] theorem recordError_sizeY (k : ErrKind) (m : MapIndex) (a : Nat) (r : Smd) : (recordError k m a r).sizeY = r.sizeY := rfl
@[simp] theorem recordError_manX (k : ErrKind) (m : MapIndex) (a : Nat) (r : Smd) : (recordError k m a r).manX = r.manX := rfl
@[simp] theorem recordError_manY (k : ErrKind) (m : MapIndex) (a : Nat) (r : Smd) : (recordError k m a r).manY = r.manY := rfl
@[simp] theorem recordError_row (k : ErrKind) (m : MapIndex) (a : Nat) (r : Smd) : (recordError k m a r).row = r.row := rfl
@[simp] theorem recordError_col (k : ErrKind) (m : MapIndex) (a : Nat) (r : Smd) : (recordError k m a r).col = r.col := rfl
@[simp] theorem recordError_grid (k : ErrKind) (m : MapIndex) (a : Nat) (r : Smd) : (recordError k m a r).grid = r.grid := rfl
@[simp] theorem recordError_mapValid (k : ErrKind) (m : MapIndex) (a : Nat) (r : Smd) : (recordError k m a r).mapValid = r.mapValid := rfl
@[simp] theorem recordError_err (k : ErrKind) (m : MapIndex) (a : Nat) (r : Smd) : (recordError k m a r).err = true := rfl
@[simp] theorem recordError_errKind (k : ErrKind) (m : MapIndex) (a : Nat) (r : Smd) : (recordError k m a r).errKind = k := rfl
@[simp] theorem recordError_errMap (k : ErrKind) (m : MapIndex) (a : Nat) (r : Smd) : (recordError k m a r).errMap = m := rfl
@[simp] theorem recordError_errOffset (k : ErrKind) (m : MapIndex) (a : Nat) (r : Smd) : (recordError k m a r).errOffset = offsetOf a := rfl
@[simp] theorem recordError_token (k : ErrKind) (m : MapIndex) (a : Nat) (r : Smd) : (recordError k m a r).token = r.token := rfl
@[simp] theorem recordError_response (k : ErrKind) (m : MapIndex) (a : Nat) (r : Smd) : (recordError k m a r).response = some (.err k m (offsetOf a)) := rfl
@[simp] theorem recordError_refusalMark (k : ErrKind) (m : MapIndex) (a : Nat) (r : Smd) : (recordError k m a r).refusalMark = r.refusalMark := rfl

/-! ### storeToken -/

@[simp] theorem storeToken_bytePtr (n : Nat) (c : Cell) (r : Smd) : (storeToken n c r).bytePtr = r.bytePtr := rfl
@[simp] theorem storeToken_bitsLeft (n : Nat) (c : Cell) (r : Smd) : (storeToken n c r).bitsLeft = r.bitsLeft := rfl
@[simp] theorem storeToken_curByte (n : Nat) (c : Cell) (r : Smd) : (storeToken n c r).curByte = r.curByte := rfl
@[simp] theorem storeToken_pending (n : Nat) (c : Cell) (r : Smd) : (storeToken n c r).pending = countOf (n - 1) := rfl
@[simp] theorem storeToken_cached (n : Nat) (c : Cell) (r : Smd) : (storeToken n c r).cached = some c := rfl
@[simp] theorem storeToken_ready (n : Nat) (c : Cell) (r : Smd) : (storeToken n c r).ready = r.ready := rfl
@[simp] theorem storeToken_mapIdx (n : Nat) (c : Cell) (r : Smd) : (storeToken n c r).mapIdx = r.mapIdx := rfl
@[simp] theorem storeToken_sizeX (n : Nat) (c : Cell) (r : Smd) : (storeToken n c r).sizeX = r.sizeX := rfl
@[simp] theorem storeToken_sizeY (n : Nat) (c : Cell) (r : Smd) : (storeToken n c r).sizeY = r.sizeY := rfl
@[simp] theorem storeToken_manX (n : Nat) (c : Cell) (r : Smd) : (storeToken n c r).manX = r.manX := rfl
@[simp] theorem storeToken_manY (n : Nat) (c : Cell) (r : Smd) : (storeToken n c r).manY = r.manY := rfl
@[simp] theorem storeToken_row (n : Nat) (c : Cell) (r : Smd) : (storeToken n c r).row = r.row := rfl
@[simp] theorem storeToken_col (n : Nat) (c : Cell) (r : Smd) : (storeToken n c r).col = r.col := rfl
@[simp] theorem storeToken_grid (n : Nat) (c : Cell) (r : Smd) : (storeToken n c r).grid = r.grid := rfl
@[simp] theorem storeToken_mapValid (n : Nat) (c : Cell) (r : Smd) : (storeToken n c r).mapValid = r.mapValid := rfl
@[simp] theorem storeToken_err (n : Nat) (c : Cell) (r : Smd) : (storeToken n c r).err = r.err := rfl
@[simp] theorem storeToken_errKind (n : Nat) (c : Cell) (r : Smd) : (storeToken n c r).errKind = r.errKind := rfl
@[simp] theorem storeToken_errMap (n : Nat) (c : Cell) (r : Smd) : (storeToken n c r).errMap = r.errMap := rfl
@[simp] theorem storeToken_errOffset (n : Nat) (c : Cell) (r : Smd) : (storeToken n c r).errOffset = r.errOffset := rfl
@[simp] theorem storeToken_token (n : Nat) (c : Cell) (r : Smd) : (storeToken n c r).token = r.token := rfl
@[simp] theorem storeToken_response (n : Nat) (c : Cell) (r : Smd) : (storeToken n c r).response = r.response := rfl
@[simp] theorem storeToken_refusalMark (n : Nat) (c : Cell) (r : Smd) : (storeToken n c r).refusalMark = r.refusalMark := rfl

/-! ### startDecode -/

@[simp] theorem startDecode_bytePtr (i : MapIndex) (r : Smd) : (startDecode i r).bytePtr = r.bytePtr := rfl
@[simp] theorem startDecode_bitsLeft (i : MapIndex) (r : Smd) : (startDecode i r).bitsLeft = r.bitsLeft := rfl
@[simp] theorem startDecode_curByte (i : MapIndex) (r : Smd) : (startDecode i r).curByte = r.curByte := rfl
@[simp] theorem startDecode_pending (i : MapIndex) (r : Smd) : (startDecode i r).pending = r.pending := rfl
@[simp] theorem startDecode_cached (i : MapIndex) (r : Smd) : (startDecode i r).cached = r.cached := rfl
@[simp] theorem startDecode_ready (i : MapIndex) (r : Smd) : (startDecode i r).ready = r.ready := rfl
@[simp] theorem startDecode_mapIdx (i : MapIndex) (r : Smd) : (startDecode i r).mapIdx = i := rfl
@[simp] theorem startDecode_sizeX (i : MapIndex) (r : Smd) : (startDecode i r).sizeX = r.sizeX := rfl
@[simp] theorem startDecode_sizeY (i : MapIndex) (r : Smd) : (startDecode i r).sizeY = r.sizeY := rfl
@[simp] theorem startDecode_manX (i : MapIndex) (r : Smd) : (startDecode i r).manX = r.manX := rfl
@[simp] theorem startDecode_manY (i : MapIndex) (r : Smd) : (startDecode i r).manY = r.manY := rfl
@[simp] theorem startDecode_row (i : MapIndex) (r : Smd) : (startDecode i r).row = r.row := rfl
@[simp] theorem startDecode_col (i : MapIndex) (r : Smd) : (startDecode i r).col = r.col := rfl
@[simp] theorem startDecode_grid (i : MapIndex) (r : Smd) : (startDecode i r).grid = r.grid := rfl
@[simp] theorem startDecode_mapValid (i : MapIndex) (r : Smd) : (startDecode i r).mapValid = false := rfl
@[simp] theorem startDecode_err (i : MapIndex) (r : Smd) : (startDecode i r).err = false := rfl
@[simp] theorem startDecode_errKind (i : MapIndex) (r : Smd) : (startDecode i r).errKind = .none := rfl
@[simp] theorem startDecode_errMap (i : MapIndex) (r : Smd) : (startDecode i r).errMap = noMap := rfl
@[simp] theorem startDecode_errOffset (i : MapIndex) (r : Smd) : (startDecode i r).errOffset = 0#32 := rfl
@[simp] theorem startDecode_token (i : MapIndex) (r : Smd) : (startDecode i r).token = .idle := rfl
@[simp] theorem startDecode_response (i : MapIndex) (r : Smd) : (startDecode i r).response = r.response := rfl
@[simp] theorem startDecode_refusalMark (i : MapIndex) (r : Smd) : (startDecode i r).refusalMark = r.refusalMark := rfl

/-! ### raiseError, by the command that raises -/

@[simp] theorem raiseError_primitive (k : ErrKind) (a : Nat) (r : Smd) :
    raiseError .primitive k a r = recordError k noMap a r := rfl
@[simp] theorem raiseError_decodeMap (k : ErrKind) (a : Nat) (r : Smd) :
    raiseError .decodeMap k a r = endDecode (recordError k r.mapIdx a r) := rfl
@[simp] theorem raiseError_resolve (i : MapIndex) (k : ErrKind) (a : Nat) (r : Smd) :
    raiseError (.resolve i) k a r = { r with response := some (.err k i (offsetOf a)) } := rfl

/-! ### State.put -/

@[simp] theorem put_env (s : State) (r : Smd) : (s.put r).env = s.env := rfl
@[simp] theorem put_host (s : State) (r : Smd) : (s.put r).host = s.host := rfl
@[simp] theorem put_before (s : State) (r : Smd) : (s.put r).before = s.before := rfl
@[simp] theorem put_smd (s : State) (r : Smd) : (s.put r).smd = r := rfl
@[simp] theorem put_after (s : State) (r : Smd) : (s.put r).after = s.after := rfl
@[simp] theorem put_self (s : State) : s.put s.smd = s := rfl
@[simp] theorem put_put (s : State) (r u : Smd) : (s.put r).put u = s.put u := rfl
theorem put_all (s : State) (r : Smd) : (s.put r).all = s.before ++ r :: s.after := rfl

end Sys2Proof.Machine
end

