-- ==== Sys2Proof/Laws/Ops.lean ====
section
/-! SUPPORT. What each shared operation can do, said once: one lemma per operation and outcome, to be cited in place of
unfolding the operation. -/

namespace Sys2Proof.Machine

/-! ### Sequencing -/

@[simp] theorem Res.bind_ok {α β : Type} (a : α) (r : Smd) (f : α → Smd → Res β) : (Res.ok a r).bind f = f a r := rfl
@[simp] theorem Res.bind_raised {α β : Type} (k : ErrKind) (o : Nat) (r : Smd) (f : α → Smd → Res β) :
    (Res.raised k o r).bind f = .raised k o r := rfl
@[simp] theorem Res.bind_fault {α β : Type} (e : Fault) (f : α → Smd → Res β) : (Res.fault e).bind f = .fault e := rfl

/-- A sequence ends well where both of its stretches do. -/
theorem Res.bind_eq_ok {α β : Type} {x : Res α} {f : α → Smd → Res β} {b : β} {r : Smd} (h : x.bind f = .ok b r) :
    ∃ a q, x = .ok a q ∧ f a q = .ok b r := by
  cases x with
  | ok a q => exact ⟨a, q, rfl, h⟩
  | raised _ _ _ => cases h
  | fault _ => cases h

/-- A sequence raises where its first stretch does, or its second after the first ended well. -/
theorem Res.bind_eq_raised {α β : Type} {x : Res α} {f : α → Smd → Res β} {k : ErrKind} {o : Nat} {r : Smd}
    (h : x.bind f = .raised k o r) : x = .raised k o r ∨ ∃ a q, x = .ok a q ∧ f a q = .raised k o r := by
  cases x with
  | ok a q => exact .inr ⟨a, q, rfl, h⟩
  | raised _ _ _ => left; simpa using h
  | fault _ => cases h

/-- A sequence stops where its first stretch does, or its second after the first ended well. -/
theorem Res.bind_eq_fault {α β : Type} {x : Res α} {f : α → Smd → Res β} {e : Fault} (h : x.bind f = .fault e) :
    x = .fault e ∨ ∃ a q, x = .ok a q ∧ f a q = .fault e := by
  cases x with
  | ok a q => exact .inr ⟨a, q, rfl, h⟩
  | raised _ _ _ => cases h
  | fault _ => left; simpa using h

/-! ### A property of the registers that a stretch of pseudocode leaves, however it ends -/

/-- The registers that a stretch leaves, whether it ends well or raises, have the property. -/
def Res.Leaves {α : Type} (P : Smd → Prop) : Res α → Prop
  | .ok _ r => P r
  | .raised _ _ r => P r
  | .fault _ => True

theorem Res.Leaves.bind {α β : Type} {P Q : Smd → Prop} {x : Res α} {f : α → Smd → Res β} (hx : x.Leaves P)
    (hPQ : ∀ r, P r → Q r) (hf : ∀ a r, P r → (f a r).Leaves Q) : (x.bind f).Leaves Q := by
  cases x with
  | ok a r => exact hf a r hx
  | raised _ _ r => exact hPQ r hx
  | fault _ => trivial

/-- Only the core registers, those R17 names, differ from `r`. -/
def CoreOnly (r q : Smd) : Prop :=
  q = { r with bytePtr := q.bytePtr, bitsLeft := q.bitsLeft, curByte := q.curByte, pending := q.pending, cached := q.cached }

theorem CoreOnly.refl (r : Smd) : CoreOnly r r := rfl

theorem CoreOnly.trans {r q p : Smd} (h : CoreOnly r q) (h' : CoreOnly q p) : CoreOnly r p := by
  unfold CoreOnly at *
  rw [h', h]

/-! ### The buffer -/

theorem memRead_inside {e : Env} {a : Nat} (h : a < e.cfg.bufLen) (r : Smd) : memRead e a r = .ok (e.buf.read a) r := by
  unfold memRead; rw [if_neg (by omega)]

theorem memRead_past {e : Env} {a : Nat} (h : e.cfg.bufLen ≤ a) (r : Smd) :
    memRead e a r = .raised .bufferExhausted a r := by
  unfold memRead; rw [if_pos h]

theorem memRead_leaves {P : Smd → Prop} {e : Env} {a : Nat} {r : Smd} (h : P r) : (memRead e a r).Leaves P := by
  unfold memRead; split <;> exact h

theorem memRead16LE_inside {e : Env} {a : Nat} (h : a + 1 < e.cfg.bufLen) (r : Smd) :
    memRead16LE e a r = .ok ((e.buf.read a).toNat + 256 * (e.buf.read (a + 1)).toNat) r := by
  unfold memRead16LE
  rw [memRead_inside (by omega), Res.bind_ok, memRead_inside h, Res.bind_ok]

/-! ### FetchBit -/

/-- A bit of the latched byte (R81). -/
theorem fetchBit_latched {e : Env} {r : Smd} (h : r.bitsLeft ≠ 0#4) (h8 : r.bitsLeft ≤ 8#4) :
    fetchBit e r =
      .ok (r.curByte.getLsbD (r.bitsLeft - 1#4).toNat) { r with bitsLeft := r.bitsLeft - 1#4 } := by
  unfold fetchBit latch deliver
  rw [if_neg h, Res.bind_ok, if_pos h8]

/-- The first bit of a byte, which is latched for it (R81). -/
theorem fetchBit_latching {e : Env} {r : Smd} (h : r.bitsLeft = 0#4) (hp : r.bytePtr.toNat < e.cfg.bufLen) :
    fetchBit e r =
      .ok ((e.buf.read r.bytePtr.toNat).getLsbD 7)
        { r with curByte := e.buf.read r.bytePtr.toNat, bytePtr := r.bytePtr + 1#32, bitsLeft := 7#4 } := by
  unfold fetchBit latch deliver
  rw [if_pos h, memRead_inside hp, Res.bind_ok, Res.bind_ok, if_pos (by decide : 8#4 ≤ 8#4)]
  simp only [show (8#4 - 1#4 : Count) = 7#4 from by decide, show (7#4 : Count).toNat = 7 from by decide]

/-- No byte is left: nothing is written (R81, R87). -/
theorem fetchBit_exhausted {e : Env} {r : Smd} (h : r.bitsLeft = 0#4) (hp : e.cfg.bufLen ≤ r.bytePtr.toNat) :
    fetchBit e r = .raised .bufferExhausted r.bytePtr.toNat r := by
  unfold fetchBit latch
  rw [if_pos h, memRead_past hp, Res.bind_raised, Res.bind_raised]

theorem fetchBit_coreOnly (e : Env) (r : Smd) : (fetchBit e r).Leaves (CoreOnly r) := by
  by_cases h : r.bitsLeft = 0#4
  · by_cases hp : r.bytePtr.toNat < e.cfg.bufLen
    · rw [fetchBit_latching h hp]; exact rfl
    · rw [fetchBit_exhausted h (by omega)]; exact rfl
  · by_cases h8 : r.bitsLeft ≤ 8#4
    · rw [fetchBit_latched h h8]; exact rfl
    · unfold fetchBit latch deliver
      rw [if_neg h, Res.bind_ok, if_neg h8]
      trivial

/-- FetchBit after a stretch that left only core registers changed. -/
theorem fetchBit_coreOnly_of {e : Env} {r q : Smd} (h : CoreOnly r q) : (fetchBit e q).Leaves (CoreOnly r) := by
  have := fetchBit_coreOnly e q
  cases hx : fetchBit e q with
  | ok a p => rw [hx] at this; exact h.trans this
  | raised k o p => rw [hx] at this; exact h.trans this
  | fault f => trivial

/-! ### Tokens and cell steps -/

theorem readCounter_coreOnly (e : Env) (r : Smd) : (readCounter e r).Leaves (CoreOnly r) := by
  unfold readCounter
  refine (fetchBit_coreOnly e r).bind (fun _ h => h) fun b q hq => ?_
  split
  · exact hq
  · exact (fetchBit_coreOnly_of hq).bind (fun _ h => h) fun _ _ h1 =>
      (fetchBit_coreOnly_of h1).bind (fun _ h => h) fun _ _ h2 =>
      (fetchBit_coreOnly_of h2).bind (fun _ h => h) fun _ _ h3 => h3

theorem readCellCode_coreOnly_of {e : Env} {r q : Smd} (h : CoreOnly r q) :
    (readCellCode e q).Leaves (CoreOnly r) := by
  unfold readCellCode
  refine (fetchBit_coreOnly_of h).bind (fun _ h => h) fun a _ h1 => ?_
  refine (fetchBit_coreOnly_of h1).bind (fun _ h => h) fun b _ h2 => ?_
  match a, b with
  | false, false => exact h2
  | false, true => exact h2
  | true, false => exact h2
  | true, true =>
    refine (fetchBit_coreOnly_of h2).bind (fun _ h => h) fun c _ h3 => ?_
    cases c <;> exact h3

theorem freshToken_coreOnly (e : Env) (r : Smd) : (freshToken e r).Leaves (CoreOnly r) := by
  unfold freshToken
  refine (readCounter_coreOnly e r).bind (fun _ h => h) fun n _ h1 => ?_
  refine (readCellCode_coreOnly_of h1).bind (fun _ h => h) fun c q h2 => ?_
  exact h2.trans rfl

theorem continueRun_coreOnly (r : Smd) : (continueRun r).Leaves (CoreOnly r) := by
  unfold continueRun
  split
  · split
    · exact rfl
    · trivial
  · trivial

/-- A cell step changes core registers alone (R90, R112). -/
theorem cellStep_coreOnly (e : Env) (r : Smd) : (cellStep e r).Leaves (CoreOnly r) := by
  unfold cellStep
  split
  · exact continueRun_coreOnly r
  · exact freshToken_coreOnly e r

theorem skipBits_coreOnly (e : Env) (k : Nat) (r : Smd) : (skipBits e k r).Leaves (CoreOnly r) := by
  induction k generalizing r with
  | zero => exact rfl
  | succ k ih =>
    refine (fetchBit_coreOnly e r).bind (fun _ h => h) fun _ q hq => ?_
    have := ih q
    cases hx : skipBits e k q with
    | ok a p => rw [hx] at this; exact hq.trans this
    | raised _ _ p => rw [hx] at this; exact hq.trans this
    | fault _ => trivial

/-! ### The grid store -/

theorem gridWrite_inside {k : Nat} {r : Smd} (h : k < r.grid.length) (c : Cell) :
    gridWrite k c r = .ok () { r with grid := r.grid.set k c } := by
  unfold gridWrite; rw [if_pos h]

theorem gridCells_inside {r : Smd} (h : r.sizeX.toNat * r.sizeY.toNat ≤ r.grid.length) :
    gridCells r = .ok (r.grid.take (r.sizeX.toNat * r.sizeY.toNat)) r := by
  unfold gridCells; rw [if_pos h]

/-! ### How a command ends -/

/-- A command that answers a next state ended well or raised (R71). -/
theorem finish_cases {c : Issuer} {s t : State} {x : Res Data} (h : finish c s x = .next t) :
    (∃ d r, x = .ok d r ∧ t = s.put (respond d r)) ∨
    (∃ k a r, x = .raised k a r ∧ t = s.put (raiseError c k a r)) := by
  cases x with
  | ok d r => left; exact ⟨d, r, rfl, by simpa [finish] using h.symm⟩
  | raised k a r => right; exact ⟨k, a, r, rfl, by simpa [finish] using h.symm⟩
  | fault f => simp [finish] at h

/-- A primitive that answers a next state was refused, repeated the recorded error, or did its own work (R80). -/
theorem gated_cases {s t : State} {body : Res Data} (h : gated s body = .next t) :
    (s.smd.ready = false ∧ t = s.put (refuse .notInitialised s.smd)) ∨
    (s.smd.ready = true ∧ s.smd.err = true ∧ t = s.put (repeatError s.smd)) ∨
    (s.smd.ready = true ∧ s.smd.err = false ∧ finish .primitive s body = .next t) := by
  unfold gated at h
  split at h
  · left; exact ⟨‹_›, by simpa using h.symm⟩
  · split at h
    · right; left; exact ⟨by simp_all, ‹_›, by simpa using h.symm⟩
    · right; right; exact ⟨by simp_all, by simp_all, h⟩

/-- With `READY = 1` and `ERR = 0` the gate is open (R80). -/
theorem gated_open {s : State} (hr : s.smd.ready = true) (he : s.smd.err = false) (body : Res Data) :
    gated s body = finish .primitive s body := by
  unfold gated; simp [hr, he]

/-- A symbol's step that answers a next state took its bits or raised (R98). -/
theorem finishSymbol_cases {s t : State} {x : Res Unit} (h : finishSymbol s x = .next t) :
    (∃ r, x = .ok () r ∧ t = s.put r) ∨
    (∃ k a r, x = .raised k a r ∧ t = s.put { raiseError .primitive k a r with token := .idle }) := by
  cases x with
  | ok d r => left; exact ⟨r, rfl, by simpa [finishSymbol] using h.symm⟩
  | raised k a r => right; exact ⟨k, a, r, rfl, by simpa [finishSymbol] using h.symm⟩
  | fault f => simp [finishSymbol] at h

/-! ### The instances -/

theorem all_length_pos (s : State) : 0 < s.all.length := by simp [State.all]

/-- Moving the focus changes no instance, and nothing else (R39, R156). -/
theorem focus_some {s t : State} {k : Nat} (h : s.focus k = some t) :
    t.all = s.all ∧ t.before.length = k ∧ s.all[k]? = some t.smd ∧ t.env = s.env ∧ t.host = s.host := by
  unfold State.focus at h
  split at h
  · cases h
  · rename_i r rest hd
    have hlt : k < s.all.length := by
      by_contra hge
      rw [List.drop_eq_nil_of_le (by omega)] at hd
      cases hd
    obtain rfl := Option.some.inj h
    refine ⟨?_, ?_, ?_, rfl, rfl⟩
    · show s.all.take k ++ r :: rest = s.all
      rw [← hd, List.take_append_drop]
    · show (s.all.take k).length = k
      rw [List.length_take]; omega
    · have : (s.all.drop k)[0]? = some r := by rw [hd]; rfl
      simpa using this

/-- The focus can move to every instance there is. -/
theorem focus_eq_none {s : State} {k : Nat} : s.focus k = none ↔ s.all.length ≤ k := by
  rw [← List.drop_eq_nil_iff]
  unfold State.focus
  cases s.all.drop k with
  | nil => simp
  | cons r rest => simp

end Sys2Proof.Machine
end

