-- ==== Sys2Proof/Laws/PerInstr.lean ====
section
/-! SUPPORT. Per-instruction families: one lemma per constructor of Instr, for the host's case split. -/

namespace Sys2Proof.Laws.TableWidth

/-- The number of bits that spec/opcode_table.json gives the instruction's row: 36 for a command word (R70), and for a
symbol the length column of R60 or R61. -/
def bits : Instr → Nat
  | .reset _ => 36
  | .init _ => 36
  | .nextBit _ => 36
  | .nextCell _ => 36
  | .readByte _ => 36
  | .resolve _ => 36
  | .decodeMap _ => 36
  | .readStatus _ => 36
  | .readMap _ => 36
  | .reserved9 _ => 36
  | .reservedA _ => 36
  | .reservedB _ => 36
  | .reservedC _ => 36
  | .reservedD _ => 36
  | .reservedE _ => 36
  | .reservedF _ => 36
  | .run1 => 1
  | .run2 => 4
  | .run3 => 4
  | .run4 => 4
  | .run5 => 4
  | .run6 => 4
  | .run7 => 4
  | .run8 => 4
  | .run9 => 4
  | .cellEmpty => 2
  | .cellWall => 2
  | .cellBarrel => 2
  | .cellBarrelSlot => 3
  | .cellBarrelPlaced => 3

/-- The encoding of the instruction has as many bits as its row of the table. -/
def Statement (i : Instr) : Prop := (encode i).bitLength = bits i

theorem reset (arg : BitVec 32) : Statement (.reset arg) := rfl
theorem init (arg : BitVec 32) : Statement (.init arg) := rfl
theorem nextBit (arg : BitVec 32) : Statement (.nextBit arg) := rfl
theorem nextCell (arg : BitVec 32) : Statement (.nextCell arg) := rfl
theorem readByte (arg : BitVec 32) : Statement (.readByte arg) := rfl
theorem resolve (arg : BitVec 32) : Statement (.resolve arg) := rfl
theorem decodeMap (arg : BitVec 32) : Statement (.decodeMap arg) := rfl
theorem readStatus (arg : BitVec 32) : Statement (.readStatus arg) := rfl
theorem readMap (arg : BitVec 32) : Statement (.readMap arg) := rfl
theorem reserved9 (arg : BitVec 32) : Statement (.reserved9 arg) := rfl
theorem reservedA (arg : BitVec 32) : Statement (.reservedA arg) := rfl
theorem reservedB (arg : BitVec 32) : Statement (.reservedB arg) := rfl
theorem reservedC (arg : BitVec 32) : Statement (.reservedC arg) := rfl
theorem reservedD (arg : BitVec 32) : Statement (.reservedD arg) := rfl
theorem reservedE (arg : BitVec 32) : Statement (.reservedE arg) := rfl
theorem reservedF (arg : BitVec 32) : Statement (.reservedF arg) := rfl
theorem run1 : Statement .run1 := rfl
theorem run2 : Statement .run2 := rfl
theorem run3 : Statement .run3 := rfl
theorem run4 : Statement .run4 := rfl
theorem run5 : Statement .run5 := rfl
theorem run6 : Statement .run6 := rfl
theorem run7 : Statement .run7 := rfl
theorem run8 : Statement .run8 := rfl
theorem run9 : Statement .run9 := rfl
theorem cellEmpty : Statement .cellEmpty := rfl
theorem cellWall : Statement .cellWall := rfl
theorem cellBarrel : Statement .cellBarrel := rfl
theorem cellBarrelSlot : Statement .cellBarrelSlot := rfl
theorem cellBarrelPlaced : Statement .cellBarrelPlaced := rfl

end Sys2Proof.Laws.TableWidth
end

