-- ==== Sys2Proof/Laws/Stream.lean ====
section
/-! SUPPORT. The bit reader against the stream as a plain sequence of bits: FetchBit delivers the bit at the cursor's
position and moves the position by one (R38, R46, R81). -/

namespace Sys2Proof.Safety

open Sys2Proof.Machine

theorem toNat_offsetOf {n : Nat} (h : n < 2 ^ 32) : (offsetOf n).toNat = n := by
  rw [offsetOf, BitVec.toNat_ofNat]
  exact Nat.mod_eq_of_lt h

theorem offsetOf_toNat (a : Offset) : offsetOf a.toNat = a := by simp [offsetOf]

theorem toNat_countOf {n : Nat} (h : n < 16) : (countOf n).toNat = n := by
  rw [countOf, BitVec.toNat_ofNat]
  exact Nat.mod_eq_of_lt h

theorem countOf_toNat (c : Count) : countOf c.toNat = c := by simp [countOf]

/-- The position after the cursor is set to `q`, where that fits. -/
theorem position_atPosition {e : Env} {q : Nat} {r : Smd} (hq : q ≤ 8 * e.cfg.bufLen) (hw : e.cfg.wf) :
    position (atPosition e q r) = q := by
  have hb := hw.1
  unfold position atPosition
  rw [toNat_offsetOf (by omega), toNat_countOf (by omega)]
  omega

/-- A cursor set after a bit of the buffer keeps R24, where the run keeps it. -/
theorem coreOk_atPosition {e : Env} {q : Nat} {r : Smd} (hq : q ≤ 8 * e.cfg.bufLen) (hw : e.cfg.wf)
    (h : CoreOk e r) : CoreOk e (atPosition e q r) := by
  have hb := hw.1
  refine ⟨h.1, ?_, h.2.2.1, fun hl => ?_⟩
  · rw [BitVec.le_def]
    show (countOf (8 * ((q + 7) / 8) - q)).toNat ≤ _
    rw [toNat_countOf (by omega)]
    have : (8#4 : Count).toNat = 8 := rfl
    omega
  · rw [BitVec.lt_def] at hl
    change _ < (countOf (8 * ((q + 7) / 8) - q)).toNat at hl
    rw [toNat_countOf (by omega)] at hl
    change 1 ≤ (offsetOf ((q + 7) / 8)).toNat ∧ (offsetOf ((q + 7) / 8)).toNat ≤ _ ∧
      e.buf.read ((q + 7) / 8 - 1) = e.buf.read ((offsetOf ((q + 7) / 8)).toNat - 1)
    rw [toNat_offsetOf (by omega)]
    refine ⟨?_, ?_, rfl⟩ <;> omega

/-- The cursor within the buffer: where it stands, in whole bytes. -/
theorem position_cases {e : Env} {r : Smd} (h : CoreOk e r) :
    (r.bitsLeft = 0#4 ∧ position r = 8 * r.bytePtr.toNat) ∨
    (r.bitsLeft ≠ 0#4 ∧ 1 ≤ r.bitsLeft.toNat ∧ r.bitsLeft.toNat ≤ 8 ∧ 1 ≤ r.bytePtr.toNat ∧
      r.bytePtr.toNat ≤ e.cfg.bufLen ∧ r.curByte = e.buf.read (r.bytePtr.toNat - 1)) := by
  by_cases h0 : r.bitsLeft = 0#4
  · left; exact ⟨h0, by simp [position, h0]⟩
  · right
    have hpos : 0 < r.bitsLeft.toNat := by
      rcases Nat.eq_zero_or_pos r.bitsLeft.toNat with hz | hp
      · exact absurd (BitVec.eq_of_toNat_eq (by simpa using hz)) h0
      · exact hp
    have h8 : r.bitsLeft.toNat ≤ 8 := by
      have := h.2.1
      rw [BitVec.le_def] at this
      exact this
    have := h.2.2.2 (by rw [BitVec.lt_def]; exact hpos)
    exact ⟨h0, hpos, h8, this⟩

/-- FetchBit delivers the bit of the stream at the cursor and moves the cursor by one bit (R38, R46, R81). -/
theorem fetchBit_stream {e : Env} {r : Smd} (h : CoreOk e r) (hw : e.cfg.wf) (hp : position r < 8 * e.cfg.bufLen) :
    fetchBit e r = .ok (streamBit e (position r)) (atPosition e (position r + 1) r) := by
  have hb := hw.1
  rcases position_cases h with ⟨h0, hpos⟩ | ⟨h0, h1, h8, hp1, hp2, hc⟩
  · have hlt : r.bytePtr.toNat < e.cfg.bufLen := by omega
    rw [fetchBit_latching h0 hlt, hpos]
    have e1 : 8 * r.bytePtr.toNat / 8 = r.bytePtr.toNat := by omega
    have e2 : 7 - 8 * r.bytePtr.toNat % 8 = 7 := by omega
    have e3 : (8 * r.bytePtr.toNat + 1 + 7) / 8 = r.bytePtr.toNat + 1 := by omega
    have e4 : 8 * (r.bytePtr.toNat + 1) - (8 * r.bytePtr.toNat + 1) = 7 := by omega
    have e5 : offsetOf (r.bytePtr.toNat + 1) = r.bytePtr + 1#32 := by
      apply BitVec.eq_of_toNat_eq
      rw [toNat_offsetOf (by omega), BitVec.toNat_add]
      simp only [BitVec.toNat_ofNat]
      omega
    unfold streamBit atPosition
    rw [e1, e2, e3, e4, e5, Nat.add_sub_cancel]
    rfl
  · have hle : r.bitsLeft ≤ 8#4 := h.2.1
    rw [fetchBit_latched h0 hle]
    have hpos : position r = 8 * r.bytePtr.toNat - r.bitsLeft.toNat := rfl
    have hsub : (r.bitsLeft - 1#4).toNat = r.bitsLeft.toNat - 1 := by
      rw [BitVec.toNat_sub]
      have : (1#4 : Count).toNat = 1 := rfl
      omega
    have e1 : position r / 8 = r.bytePtr.toNat - 1 := by omega
    have e2 : 7 - position r % 8 = r.bitsLeft.toNat - 1 := by omega
    have e3 : (position r + 1 + 7) / 8 = r.bytePtr.toNat := by omega
    have e4 : countOf (8 * r.bytePtr.toNat - (position r + 1)) = r.bitsLeft - 1#4 := by
      rw [← countOf_toNat (r.bitsLeft - 1#4), hsub]
      congr 1
      omega
    unfold streamBit atPosition
    rw [e1, e2, e3, e4, hsub, offsetOf_toNat, ← hc]

/-- FetchBit at the end of the buffer raises, and writes nothing (R86, R87). -/
theorem fetchBit_end {e : Env} {r : Smd} (h : CoreOk e r) (hp : 8 * e.cfg.bufLen ≤ position r) :
    fetchBit e r = .raised .bufferExhausted r.bytePtr.toNat r := by
  rcases position_cases h with ⟨h0, hpos⟩ | ⟨_, h1, _, _, h2, _⟩
  · exact fetchBit_exhausted h0 (by omega)
  · have hpos : position r = 8 * r.bytePtr.toNat - r.bitsLeft.toNat := rfl
    omega

/-- Setting the cursor twice sets it to the last place. -/
theorem atPosition_atPosition (e : Env) (p q : Nat) (r : Smd) :
    atPosition e q (atPosition e p r) = atPosition e q r := rfl

/-- A cursor that has read a bit stands where `atPosition` puts it. -/
theorem skipBits_stream {e : Env} {r : Smd} (h : CoreOk e r) (hw : e.cfg.wf) {k : Nat}
    (hp : position r + k ≤ 8 * e.cfg.bufLen) :
    skipBits e k r = .ok () (if k = 0 then r else atPosition e (position r + k) r) := by
  induction k generalizing r with
  | zero => rfl
  | succ k ih =>
    have hlt : position r < 8 * e.cfg.bufLen := by omega
    unfold skipBits
    rw [fetchBit_stream h hw hlt, Res.bind_ok]
    have hq := position_atPosition (r := r) (show position r + 1 ≤ 8 * e.cfg.bufLen by omega) hw
    rw [ih (coreOk_atPosition (by omega) hw h) (by rw [hq]; omega), hq, if_neg (Nat.succ_ne_zero k)]
    split
    · rename_i hk; subst hk; rfl
    · rw [atPosition_atPosition, show position r + 1 + k = position r + (k + 1) by omega]

end Sys2Proof.Safety
end

