-- ==== Sys2Proof/Tests/Slice0.lean ====
section
/-! SUPPORT. The model's own tests: words written out from the spec's encodings, single steps taken from the vectors of
95_test_vectors.md, and for every obligation with hypotheses a state that meets them. -/

namespace Sys2Proof.Tests

open Sys2Proof.Machine Sys2Proof.Safety

/-! ### Encodings (R60, R61, R70) -/

theorem test_decode_commands :
    decode (.command 0x012345678#36) = .ok (.reset 0x12345678#32) ∧
    decode (.command 0x10000148E#36) = .ok (.init 0x148E#32) ∧
    decode (.command 0x200000000#36) = .ok (.nextBit 0#32) ∧
    decode (.command 0x3FFFFFFFF#36) = .ok (.nextCell 0xFFFFFFFF#32) ∧
    decode (.command 0x400000001#36) = .ok (.readByte 1#32) ∧
    decode (.command 0x50000003B#36) = .ok (.resolve 59#32) ∧
    decode (.command 0x600000002#36) = .ok (.decodeMap 2#32) ∧
    decode (.command 0x700000000#36) = .ok (.readStatus 0#32) ∧
    decode (.command 0x800000000#36) = .ok (.readMap 0#32) := by decide

theorem test_decode_reserved :
    decode (.command 0x900000000#36) = .ok (.reserved9 0#32) ∧
    decode (.command 0xA00000000#36) = .ok (.reservedA 0#32) ∧
    decode (.command 0xB00000000#36) = .ok (.reservedB 0#32) ∧
    decode (.command 0xC00000000#36) = .ok (.reservedC 0#32) ∧
    decode (.command 0xD00000000#36) = .ok (.reservedD 0#32) ∧
    decode (.command 0xE00000000#36) = .ok (.reservedE 0#32) ∧
    decode (.command 0xF00000001#36) = .ok (.reservedF 1#32) := by decide

theorem test_decode_counters :
    decode (.counter [false]) = .ok .run1 ∧
    decode (.counter [true, false, false, false]) = .ok .run2 ∧
    decode (.counter [true, false, false, true]) = .ok .run3 ∧
    decode (.counter [true, false, true, false]) = .ok .run4 ∧
    decode (.counter [true, false, true, true]) = .ok .run5 ∧
    decode (.counter [true, true, false, false]) = .ok .run6 ∧
    decode (.counter [true, true, false, true]) = .ok .run7 ∧
    decode (.counter [true, true, true, false]) = .ok .run8 ∧
    decode (.counter [true, true, true, true]) = .ok .run9 := by decide

theorem test_decode_cell_codes :
    decode (.cellCode [false, false]) = .ok .cellEmpty ∧
    decode (.cellCode [false, true]) = .ok .cellWall ∧
    decode (.cellCode [true, false]) = .ok .cellBarrel ∧
    decode (.cellCode [true, true, false]) = .ok .cellBarrelSlot ∧
    decode (.cellCode [true, true, true]) = .ok .cellBarrelPlaced := by decide

theorem test_decode_rejects :
    decode (.counter [true, false, true]) = .error .truncatedCounter ∧
    decode (.cellCode [true, true]) = .error .truncatedCellCode ∧
    decode (.counter [false, true]) = .error .trailingBits ∧
    decodeTableWord 40 0x1000000000 = none ∧ decodeTableWord 8 5 = none := by decide

theorem test_table_words :
    decodeTableWord 40 0x500000003 = some (.resolve 3#32) ∧ decodeTableWord 8 13 = some .run7 ∧
    decodeTableWord 8 6 = some .cellBarrelSlot ∧ decodeTableWord 1 0 = some .run1 ∧
    decodeTableWord 2 0 = some .cellEmpty := by decide

/-- R72: an index operand with a bit above 15 set is ill-formed. -/
theorem test_wellFormed_refuses_wide_index :
    Instr.wellFormed (.resolve 0x00010000#32) = false ∧ Instr.wellFormed (.decodeMap 0x80000000#32) = false ∧
    Instr.wellFormed (.resolve 0x0000FFFF#32) = true ∧ Instr.wellFormed (.decodeMap 59#32) = true := by decide

/-! ### Single steps, with the vectors they are taken from -/

/-- A machine with the source's parameters, these buffer bytes, and these registers. -/
def machine (buf : Memory) (regs : Smd → Smd) : State :=
  let s := State.powerOn { cfg := Params.source, buf := buf } 0 []
  s.put (regs s.smd)

/-- A core that INIT has started at `a`. -/
def started (a : Offset) (r : Smd) : Smd := { r with bytePtr := a, ready := true }

/-- The instance after a step; none where the machine stops. -/
def after : Host.Outcome State Fault Refusal → Option Smd
  | .next t => some t.smd
  | .fault _ => none
  | .refused _ => none

/-- The cursor, the run and the response after a step. -/
def core (o : Host.Outcome State Fault Refusal) : Option (Offset × Count × Count × Option Cell × Option Response) :=
  (after o).map fun r => (r.bytePtr, r.bitsLeft, r.pending, r.cached, r.response)

/-- The four status words and the response after a step. -/
def status (o : Host.Outcome State Fault Refusal) : Option (Data × Option Response) :=
  (after o).map fun r => (statusWords r, r.response)

/-- The record of section 2.7 in its passing reading: entry 0 is 0x0000, 1 × 1, Empty, player at (0, 0). -/
def oneEmpty : Memory := [(0x148C, 1#8), (0x148D, 1#8)]

/-- The record of P1: 3 × 2. -/
def p1 : Memory := [(0x148C, 3#8), (0x148D, 2#8), (0x148E, 0xA4#8), (0x148F, 0x30#8), (0x1490, 1#8), (0x1491, 1#8)]

/-- CT1. -/
theorem test_reset :
    status (exec (.reset 5#32) (machine [] fun r => { started 7#32 r with err := true, pending := 3#4 })) =
      some (.status 0x0001C000#32 0x0000FFFF#32 0#32 0#32, some (.ok .none)) := by decide

/-- BR5: INIT clears the error. -/
theorem test_init :
    status (exec (.init 0x2987#32) (machine [] fun r =>
      { started 0x2988#32 r with err := true, errKind := .bufferExhausted, errOffset := 0x2988#32 })) =
      some (.status 0x0001C010#32 0x0000FFFF#32 0#32 0x2987#32, some (.ok .none)) := by decide

/-- BR1, first bit. -/
theorem test_next_bit :
    core (exec (.nextBit 0#32) (machine [(0x148E, 0xA4#8)] (started 0x148E#32))) =
      some (0x148F#32, 7#4, 0#4, none, some (.ok (.bit true))) := by decide

/-- BR3, the ninth bit. -/
theorem test_next_bit_past_end :
    status (exec (.nextBit 0#32) (machine [(0x2987, 0x81#8)] (started 0x2988#32))) =
      some (.status 0x0001C013#32 0x0000FFFF#32 0x2988#32 0x2988#32, some (.err .bufferExhausted noMap 0x2988#32)) := by
  decide

/-- SD1, first call. -/
theorem test_next_cell_fresh :
    status (exec (.nextCell 0#32) (machine [(0x148E, 0x84#8)] (started 0x148E#32))) =
      some (.status 0x00004490#32 0x0000FFFF#32 0#32 0x148F#32, some (.ok (.cell .wall))) := by decide

/-- SD4, second call: the buffer ends inside the token, after its counter and one bit. -/
theorem test_next_cell_cut :
    status (exec (.nextCell 0#32) (machine [(0x2987, 0x3F#8)] fun r =>
      { started 0x2988#32 r with bitsLeft := 5#4, curByte := 0x3F#8, cached := some .wall })) =
      some (.status 0x00004013#32 0x0000FFFF#32 0x2988#32 0x2988#32, some (.err .bufferExhausted noMap 0x2988#32)) := by
  decide

/-- BR8: the five unread bits of 0xA4 are discarded. -/
theorem test_read_byte :
    core (exec (.readByte 0#32) (machine [(0x148E, 0xA4#8), (0x148F, 0x30#8)] fun r =>
      { started 0x148F#32 r with bitsLeft := 5#4, curByte := 0xA4#8 })) =
      some (0x1490#32, 0#4, 0#4, none, some (.ok (.byte 0x30#8))) := by decide

/-- RS2. -/
theorem test_resolve :
    (after (exec (.resolve 3#32) (machine [(0x2816, 0x34#8), (0x2817, 0x12#8)] id))).map Smd.response =
      some (some (.ok (.offset 0x26C0#32))) := by decide

/-- RS4. -/
theorem test_resolve_out_of_range :
    status (exec (.resolve 60#32) (machine [] id)) =
      some (.status 0x0001C000#32 0x0000FFFF#32 0#32 0#32, some (.err .indexOutOfRange 60#16 0x2888#32)) := by decide

/-- DM2. -/
theorem test_decode_map :
    status (exec (.decodeMap 0#32) (machine oneEmpty id)) =
      some (.status 0x00000020#32 0x0000FFFF#32 0#32 0x1491#32, some (.ok .none)) := by decide +kernel

/-- P1, steps 3 and 4: the status and the Map that DECODE_MAP 0 leaves. -/
theorem test_decode_map_p1 :
    (after (exec (.decodeMap 0#32) (machine p1 id))).map
      (fun r => (statusW0 r, r.sizeX, r.sizeY, r.grid.take 6, r.manX, r.manY)) =
      some (0x0000C020#32, 3#8, 2#8, [.wall, .wall, .wall, .wall, .empty, .barrelSlot], 1#8, 1#8) := by decide +kernel

/-- R132's example. -/
theorem test_read_status :
    (after (exec (.readStatus 0#32) (machine [] fun r =>
      { started 0x148F#32 r with bitsLeft := 2#4, pending := 1#4, cached := some .wall }))).map Smd.response =
      some (some (.ok (.status 0x00004490#32 0x0000FFFF#32 0#32 0x148F#32))) := by decide

/-- R133's example. -/
theorem test_read_map :
    (after (exec (.readMap 0#32) (machine [] fun r =>
      { r with mapValid := true, sizeX := 1#8, sizeY := 1#8 }))).map Smd.response =
      some (some (.ok (.map 1#8 1#8 [.empty] 0#8 0#8))) := by decide +kernel

/-- CT3: every reserved opcode, from its own opcode number. -/
theorem test_reserved :
    ∀ c ∈ [0x9#4, 0xA#4, 0xB#4, 0xC#4, 0xD#4, 0xE#4, 0xF#4],
      (after (step (State.powerOn { cfg := Params.source, buf := [] } 0 [{ smdNo := 0, cmd := c, arg := 0#32 }]))).map
        (fun r => (r.response, r.refusalMark)) = some (some (.refused .reservedOpcode), true) := by decide

/-- R60: each counter's code, placed at the cursor of the machine after reset, is run by the next step. -/
theorem test_counter_symbols :
    ∀ x ∈ [(1, 0, 7#4, 1), (4, 8, 4#4, 2), (4, 9, 4#4, 3), (4, 10, 4#4, 4), (4, 11, 4#4, 5), (4, 12, 4#4, 6),
        (4, 13, 4#4, 7), (4, 14, 4#4, 8), (4, 15, 4#4, 9)],
      (after (step (State.reset.withFetchWord x.1 x.2.1))).map (fun r => (r.bitsLeft, r.token)) =
        some (x.2.2.1, .code x.2.2.2) := by decide

/-- R61: each cell code, placed at the cursor of the machine after reset, is run by the next step. -/
theorem test_cell_code_symbols :
    ∀ x ∈ [(2, 0, 6#4, Cell.empty), (2, 1, 6#4, .wall), (2, 2, 6#4, .barrel), (3, 6, 5#4, .barrelSlot),
        (3, 7, 5#4, .barrelPlaced)],
      (after (step (State.reset.withFetchWord x.1 x.2.1))).map (fun r => (r.bitsLeft, r.cached, r.response)) =
        some (x.2.2.1, some x.2.2.2, some (.ok (.cell x.2.2.2))) := by decide

/-! ### Witnesses: for every obligation with hypotheses, a state and operands that meet them together -/

/-- A small machine: 24 bytes of buffer, the table of one entry at 0, records from offset 2 on, maps below 4 × 4, and a
second instance. -/
def tiny (buf : Memory) (regs : Smd → Smd) : State :=
  let env : Env :=
    { cfg := { bufLen := 24, segmentBase := 0, tableBase := 0, dataBase := 2, mapCount := 1, maxX := 4, maxY := 4 },
      buf := buf }
  let s := State.powerOn env 1 []
  s.put (regs s.smd)

/-- A command for the instance `k`. -/
def cmd (k : Nat) (c : BitVec 4) : Issued := { smdNo := k, cmd := c, arg := 0#32 }

/-- A step answers a next state. -/
def goesOn (o : Host.Outcome State Fault Refusal) : Bool := (after o).isSome

theorem goesOn_next {o : Host.Outcome State Fault Refusal} (h : goesOn o = true) : ∃ t, o = .next t := by
  cases o with
  | next t => exact ⟨t, rfl⟩
  | fault _ => cases h
  | refused _ => cases h

/-- A core in the middle of the byte at offset 2, which holds `5×Wall` and two bits more. -/
def midByte : State :=
  tiny [(2, 0xB4#8)] fun r => { started 3#32 r with bitsLeft := 8#4, curByte := 0xB4#8 }

/-- A core at the last two bits of the buffer: no token is left whole. -/
def nearEnd : State := tiny [] fun r => { started 24#32 r with bitsLeft := 2#4 }

/-- A core at the buffer's end. -/
def atEnd : State := tiny [] (started 24#32)

theorem tokBits_length (t : Tok) (h : tokOk t) : 3 ≤ (tokBits t).length := by
  obtain ⟨n, c⟩ := t
  cases c <;> simp only [tokBits, counterBits] <;> split <;> simp [cellBits]

/-- StepRunsIssuedCommand, StepLeavesOtherSmdsAlone: a command for the second instance. -/
theorem test_witness_issued :
    let s := { tiny [] id with host := [cmd 1 0x1#4] }
    s.smd.token = .idle ∧ s.host = cmd 1 0x1#4 :: [] ∧ (cmd 1 0x1#4).smdNo < s.all.length ∧
    goesOn (step s) = true := by decide

/-- AbsentSmdStops. -/
theorem test_witness_absent :
    let s := { tiny [] id with host := [cmd 2 0x1#4] }
    s.smd.token = .idle ∧ s.host = cmd 2 0x1#4 :: [] ∧ s.all.length ≤ (cmd 2 0x1#4).smdNo := by decide

/-- IdleKeepsEveryRegister. -/
theorem test_witness_idle : State.reset.smd.token = .idle ∧ State.reset.host = [] := by decide

/-- CommandsToDifferentSmdsCommute: two INITs. -/
theorem test_witness_commute :
    let s := tiny [] id
    AtBoundary s ∧ (cmd 0 0x1#4).smdNo ≠ (cmd 1 0x1#4).smdNo ∧
    ∃ t u, step { s with host := [cmd 0 0x1#4, cmd 1 0x1#4] } = .next t ∧ step t = .next u :=
  ⟨by decide, by decide, _, _, rfl, rfl⟩

/-- StepRunsSymbolAtCursor: its counter clause. -/
theorem test_witness_symbol_counter :
    let s := midByte.put { midByte.smd with token := .counter }
    CoreOk s.env s.smd ∧ s.env.cfg.wf ∧ StreamHas s.env (position s.smd) [true, false, true, true] ∧
    s.smd.token = .counter ∧ encode .run5 = .counter [true, false, true, true] := by decide

/-- StepRunsSymbolAtCursor: its cell-code clause, at the fifth bit of the byte. -/
theorem test_witness_symbol_cell :
    let s := midByte.put { midByte.smd with bitsLeft := 4#4, token := .code 5 }
    CoreOk s.env s.smd ∧ s.env.cfg.wf ∧ StreamHas s.env (position s.smd) [false, true] ∧
    s.smd.token = .code 5 ∧ encode .cellWall = .cellCode [false, true] := by decide

/-- NoInstructionWritesOutsideItsSmd, SealedMapIsImmutable, CursorOnlyMovesForward: a NEXT_CELL. -/
theorem test_witness_exec :
    CoreOk midByte.env midByte.smd ∧ midByte.env.cfg.wf ∧ goesOn (exec (.nextCell 0#32) midByte) = true := by decide

/-- ReadMapAnswersSealedMap: a sealed Map that fills the grid store, and no Map beside sizes larger than the store. -/
theorem test_witness_read_map :
    (let s := tiny [] fun r => { r with mapValid := true, sizeX := 3#8, sizeY := 3#8 }
     s.smd.mapValid = true ∧ s.smd.sizeX.toNat * s.smd.sizeY.toNat ≤ s.smd.grid.length) ∧
    (let s := tiny [] fun r => { r with sizeX := 255#8, sizeY := 255#8 }
     s.smd.mapValid = false ∧ s.smd.grid.length < s.smd.sizeX.toNat * s.smd.sizeY.toNat) := by decide

/-- ReservedAndWideAreRefused: the least wide argument, and its own boundary below. -/
theorem test_witness_wide :
    0x10000 ≤ (0x10000#32).toNat ∧ ¬ 0x10000 ≤ (0xFFFF#32).toNat ∧
    mapIndexOperand 0x10000#32 = none ∧ mapIndexOperand 0xFFFF#32 = some 0xFFFF#16 := by decide

/-- RefusalMarkStays. -/
theorem test_witness_mark :
    let s := tiny [] fun r => { r with refusalMark := true }
    goesOn (exec (.reset 0#32) s) = true ∧ s.smd.refusalMark = true := by decide

/-- GateRefusesOrRepeatsError: both clauses. -/
theorem test_witness_gate :
    (tiny [] id).smd.ready = false ∧
    (tiny [] fun r => { started 0#32 r with err := true }).smd.ready = true ∧
    (tiny [] fun r => { started 0#32 r with err := true }).smd.err = true := by decide

/-- NextBitDeliversStreamBit: at the last bit of the buffer, and at its end. -/
theorem test_witness_next_bit :
    (let s := nearEnd.put { nearEnd.smd with bitsLeft := 1#4 }
     s.smd.ready = true ∧ s.smd.err = false ∧ CoreOk s.env s.smd ∧ s.env.cfg.wf ∧
       position s.smd < 8 * s.env.cfg.bufLen) ∧
    (atEnd.smd.ready = true ∧ atEnd.smd.err = false ∧ CoreOk atEnd.env atEnd.smd ∧ atEnd.env.cfg.wf ∧
      atEnd.smd.bitsLeft = 0#4 ∧ atEnd.env.cfg.bufLen ≤ atEnd.smd.bytePtr.toNat) := by decide

/-- ReadByteAnswersByteAtCursor: at the last byte, and at the buffer's end. -/
theorem test_witness_read_byte :
    (let s := tiny [] (started 23#32)
     s.smd.ready = true ∧ s.smd.err = false ∧ s.smd.bytePtr.toNat < s.env.cfg.bufLen) ∧
    (atEnd.smd.ready = true ∧ atEnd.smd.err = false ∧ atEnd.env.cfg.bufLen ≤ atEnd.smd.bytePtr.toNat) := by decide

/-- NextBitsReadWholeStream: from the last byte, no bit and all eight of them. -/
theorem test_witness_next_bits :
    let s := tiny [] id
    s.env.cfg.wf ∧ (23#32).toNat ≤ s.env.cfg.bufLen ∧ goesOn (exec (.init 23#32) s) = true ∧
    0 ≤ 8 * (s.env.cfg.bufLen - (23#32).toNat) ∧ 8 = 8 * (s.env.cfg.bufLen - (23#32).toNat) := by decide

/-- NextCellContinuesRun: the longest run that can be pending. -/
theorem test_witness_continue :
    let s := tiny [] fun r => { started 3#32 r with pending := 8#4, cached := some .barrel }
    s.smd.ready = true ∧ s.smd.err = false ∧ 0#4 < s.smd.pending ∧ s.smd.pending ≤ 8#4 ∧
    s.smd.cached = some .barrel := by decide

/-- NextCellReadsFreshToken: `5×Wall` in the middle of a stream. -/
theorem test_witness_fresh :
    midByte.smd.ready = true ∧ midByte.smd.err = false ∧ midByte.smd.pending = 0#4 ∧ CoreOk midByte.env midByte.smd ∧
    midByte.env.cfg.wf ∧ tokOk (5, .wall) ∧
    StreamHas midByte.env (position midByte.smd) (tokBits (5, .wall)) := by decide

/-- NextCellCutByBufferEnd: two bits before the end, and at the end. -/
theorem test_witness_cut :
    (nearEnd.smd.ready = true ∧ nearEnd.smd.err = false ∧ nearEnd.smd.pending = 0#4 ∧
      CoreOk nearEnd.env nearEnd.smd ∧ nearEnd.env.cfg.wf ∧
      (∀ t, tokOk t → ¬ StreamHas nearEnd.env (position nearEnd.smd) (tokBits t)) ∧
      position nearEnd.smd < 8 * nearEnd.env.cfg.bufLen) ∧
    (CoreOk atEnd.env atEnd.smd ∧ atEnd.smd.pending = 0#4 ∧
      (∀ t, tokOk t → ¬ StreamHas atEnd.env (position atEnd.smd) (tokBits t)) ∧
      8 * atEnd.env.cfg.bufLen ≤ position atEnd.smd) := by
  refine ⟨⟨by decide, by decide, by decide, by decide, by decide, fun t ht h => ?_, by decide⟩,
    by decide, by decide, fun t ht h => ?_, by decide⟩
  · have := tokBits_length t ht
    have hp : position nearEnd.smd = 190 := by decide
    have hb : nearEnd.env.cfg.bufLen = 24 := rfl
    have := h.1
    omega
  · have := tokBits_length t ht
    have hp : position atEnd.smd = 192 := by decide
    have hb : atEnd.env.cfg.bufLen = 24 := rfl
    have := h.1
    omega

/-- NextCellsFollowTokens: six cells of `5×Wall, 2×Empty`, the second run not used up. -/
theorem test_witness_next_cells :
    let s := tiny [(2, 0xB6#8)] (started 2#32)
    let ts : List Tok := [(5, .wall), (2, .empty)]
    s.smd.ready = true ∧ s.smd.err = false ∧ s.smd.pending = 0#4 ∧ CoreOk s.env s.smd ∧ s.env.cfg.wf ∧
    Supplies ts 6 ∧ StreamHas s.env (position s.smd) (toksBits ts) := by decide

/-- CounterSymbolsGiveRunLength, CellCodeSymbolsStoreToken: the last four bits of the buffer. -/
theorem test_witness_symbols :
    let s := nearEnd.put { nearEnd.smd with bitsLeft := 4#4, token := .code 9 }
    CoreOk s.env s.smd ∧ s.env.cfg.wf ∧ s.smd.token = .code 9 ∧ position s.smd + 4 ≤ 8 * s.env.cfg.bufLen := by decide

/-- SymbolCutByBufferEnd: a counter where one is due, and a cell code after a counter, one bit before the end; and both
at the end. -/
theorem test_witness_symbol_cut :
    (let s := nearEnd.put { nearEnd.smd with bitsLeft := 1#4, token := .counter }
     CoreOk s.env s.smd ∧ s.env.cfg.wf ∧ position s.smd < 8 * s.env.cfg.bufLen ∧
       8 * s.env.cfg.bufLen < position s.smd + 4 ∧ goesOn (exec .run2 s) = true) ∧
    (let s := nearEnd.put { nearEnd.smd with bitsLeft := 1#4, token := .code 1 }
     CoreOk s.env s.smd ∧ s.env.cfg.wf ∧ s.smd.token = .code 1 ∧ position s.smd < 8 * s.env.cfg.bufLen ∧
       8 * s.env.cfg.bufLen < position s.smd + 2 ∧ goesOn (exec .cellWall s) = true) ∧
    (∀ t ∈ [Token.counter, .code 1],
      let s := atEnd.put { atEnd.smd with token := t }
      CoreOk s.env s.smd ∧ s.env.cfg.wf ∧ 8 * s.env.cfg.bufLen ≤ position s.smd ∧
        goesOn (exec .run1 s) = true ∧ (t = .code 1 → goesOn (exec .cellWall s) = true)) := by decide

/-- BareCellCodeStops. -/
theorem test_witness_bare : ∀ n, State.reset.smd.token ≠ .code n := fun _ h => by cases h

/-- NextCellIsItsTwoSymbols: a whole counter, and one cut off by the buffer's end. -/
theorem test_witness_two_symbols :
    (midByte.smd.ready = true ∧ midByte.smd.err = false ∧ midByte.smd.pending = 0#4 ∧ midByte.smd.token = .idle ∧
      ∃ i, fetchCounter midByte = .ok i) ∧
    (atEnd.smd.ready = true ∧ atEnd.smd.err = false ∧ atEnd.smd.pending = 0#4 ∧ atEnd.smd.token = .idle ∧
      ∀ i, fetchCounter atEnd ≠ .ok i) := by
  refine ⟨⟨by decide, by decide, by decide, by decide, .run5, by decide⟩, by decide, by decide, by decide, by decide, ?_⟩
  intro i h
  have he : fetchCounter atEnd = .error .truncatedCounter := by decide
  rw [he] at h
  cases h

/-- ResolveAnswersRecordOffset: an entry, the first index past the table, and a table cut by the buffer's end. -/
theorem test_witness_resolve :
    EntryInBuffer (tiny [] id).env (0#16).toNat ∧ (tiny [] id).env.cfg.mapCount ≤ (1#16).toNat ∧
    (let p : Params := { (tiny [] id).env.cfg with bufLen := 1 }
     (0#16).toNat < p.mapCount ∧ p.bufLen ≤ p.tableBase + 2 * (0#16).toNat + 1) := by decide

/-- ResolveIsPureLookup, DecodeMapIgnoresHistory: instances with different registers. -/
theorem test_witness_same_configuration :
    midByte.env = (tiny [(2, 0xB4#8)] id).env ∧ midByte.smd ≠ (tiny [(2, 0xB4#8)] id).smd ∧ midByte.env.cfg.wf ∧
    midByte.smd.grid.length = midByte.env.cfg.gridCap ∧
    (tiny [(2, 0xB4#8)] id).smd.grid.length = (tiny [(2, 0xB4#8)] id).env.cfg.gridCap := by decide

/-- A record at offset 2 (entry 0 is 0): its two sizes, `3×Wall, 4×Empty` in bytes 4 and 5, and the player. -/
def record (x y manX manY : Byte) : State :=
  tiny ([(2, x), (3, y), (4, 0x96#8), (5, 0x80#8), (6, manX), (7, manY)].filter fun c => c.2 != 0#8) id

/-- The tokens of `record`. -/
def recordToks : List Tok := [(3, .wall), (4, .empty)]

/-- DecodeMapSealsTheMap, PrimitiveProtocolMatchesDecodeMap: 3 × 2, the player at (1, 1), one surplus cell. -/
theorem test_witness_sealed :
    let s := record 3#8 2#8 1#8 1#8
    s.env.cfg.wf ∧ s.smd.grid.length = s.env.cfg.gridCap ∧ StreamOk s.env (0#16).toNat recordToks ∧
    PlayerInside s.env (0#16).toNat recordToks ∧
    (expand recordToks)[playerIndex s.env (0#16).toNat recordToks]? = some .empty ∧
    (after (exec (.decodeMap 0#32) s)).map Smd.mapValid = some true := by decide

/-- DecodeMapPlayerOutside: man_x = size_x. -/
theorem test_witness_outside :
    let s := record 3#8 2#8 3#8 1#8
    s.env.cfg.wf ∧ s.smd.grid.length = s.env.cfg.gridCap ∧ StreamOk s.env (0#16).toNat recordToks ∧
    ¬ PlayerInside s.env (0#16).toNat recordToks := by decide

/-- DecodeMapPlayerNotOnEmpty: the player on a Wall. -/
theorem test_witness_occupied :
    let s := record 3#8 2#8 1#8 0#8
    s.env.cfg.wf ∧ s.smd.grid.length = s.env.cfg.gridCap ∧ StreamOk s.env (0#16).toNat recordToks ∧
    PlayerInside s.env (0#16).toNat recordToks ∧
    (expand recordToks)[playerIndex s.env (0#16).toNat recordToks]? ≠ some .empty := by decide

/-- DecodeMapIndexOutOfRange: the first index past the table. -/
theorem test_witness_decode_range : (tiny [] id).env.cfg.mapCount ≤ (1#16).toNat := by decide

/-- DecodeMapTableOrPrologCut: a table, a `size_x` and a `size_y` just past the buffer. -/
theorem test_witness_prolog_cut :
    (let p : Params := { (tiny [] id).env.cfg with bufLen := 1 }
     (0#16).toNat < p.mapCount ∧ p.bufLen ≤ p.tableBase + 2 * (0#16).toNat + 1) ∧
    (let s := tiny [(0, 22#8)] id
     (0#16).toNat < s.env.cfg.mapCount ∧ s.env.cfg.tableBase + 2 * (0#16).toNat + 1 < s.env.cfg.bufLen ∧
       s.env.cfg.bufLen ≤ recordBase s.env (0#16).toNat) ∧
    (let s := tiny [(0, 21#8)] id
     (0#16).toNat < s.env.cfg.mapCount ∧ s.env.cfg.tableBase + 2 * (0#16).toNat + 1 < s.env.cfg.bufLen ∧
       s.env.cfg.bufLen = recordBase s.env (0#16).toNat + 1) := by decide

/-- DecodeMapInvalidDimensions: size_x, then size_y, at its bound. -/
theorem test_witness_dimensions :
    ∀ s ∈ [record 4#8 1#8 0#8 0#8, record 1#8 4#8 0#8 0#8],
      EntryInBuffer s.env (0#16).toNat ∧ recordBase s.env (0#16).toNat + 1 < s.env.cfg.bufLen ∧
      (s.env.cfg.maxX ≤ (recordX s.env (0#16).toNat).toNat ∨ s.env.cfg.maxY ≤ (recordY s.env (0#16).toNat).toNat) := by
  decide

/-- DecodeMapZeroDimension: a zero size_x, with the epilog in the buffer and cut by its end. -/
theorem test_witness_zero :
    (let s := record 0#8 3#8 0#8 0#8
     s.env.cfg.wf ∧ PrologOk s.env (0#16).toNat ∧ recordX s.env (0#16).toNat = 0#8 ∧
       recordBase s.env (0#16).toNat + 3 < s.env.cfg.bufLen) ∧
    (let s := tiny [(0, 19#8)] id
     s.env.cfg.wf ∧ PrologOk s.env (0#16).toNat ∧ recordY s.env (0#16).toNat = 0#8 ∧
       ¬ recordBase s.env (0#16).toNat + 3 < s.env.cfg.bufLen) := by decide

/-- A 3 × 3 record at the buffer's last bytes: its sizes at 21 and 22, and one byte of bitstream. -/
def cutRecord : State := tiny [(0, 19#8), (21, 3#8), (22, 3#8), (23, 0x97#8)] id

/-- DecodeMapBitstreamCut: after `3×Wall` the last two bits are `1 1`, no whole token. -/
theorem test_witness_bitstream_cut :
    let s := cutRecord
    s.env.cfg.wf ∧ s.smd.grid.length = s.env.cfg.gridCap ∧ PrologOk s.env (0#16).toNat ∧
    (∀ t ∈ [((3, Cell.wall) : Tok)], tokOk t) ∧
    (expand [(3, .wall)]).length < (recordX s.env (0#16).toNat).toNat * (recordY s.env (0#16).toNat).toNat ∧
    StreamHas s.env (8 * (recordBase s.env (0#16).toNat + 2)) (toksBits [(3, .wall)]) ∧
    (∀ t, tokOk t →
      ¬ StreamHas s.env (8 * (recordBase s.env (0#16).toNat + 2) + (toksBits [(3, .wall)]).length) (tokBits t)) := by
  refine ⟨by decide, by decide, by decide, by decide, by decide, by decide, fun t ht h => ?_⟩
  have := tokBits_length t ht
  have hb : 8 * (recordBase cutRecord.env (0#16).toNat + 2) + (toksBits [(3, .wall)]).length = 190 := by decide
  have hl : cutRecord.env.cfg.bufLen = 24 := rfl
  have := h.1
  omega

/-- DecodeMapEpilogCut: a 1 × 1 record at the buffer's last three bytes, and one that ends a byte before. -/
theorem test_witness_epilog_cut :
    (let s := tiny [(0, 19#8), (21, 1#8), (22, 1#8)] id
     s.env.cfg.wf ∧ s.smd.grid.length = s.env.cfg.gridCap ∧ PrologOk s.env (0#16).toNat ∧
       Supplies [(1, .empty)] ((recordX s.env (0#16).toNat).toNat * (recordY s.env (0#16).toNat).toNat) ∧
       StreamHas s.env (8 * (recordBase s.env (0#16).toNat + 2)) (toksBits [(1, .empty)]) ∧
       s.env.cfg.bufLen = recordEnd s.env (0#16).toNat [(1, .empty)]) ∧
    (let s := tiny [(0, 18#8), (20, 1#8), (21, 1#8)] id
     s.env.cfg.wf ∧ PrologOk s.env (0#16).toNat ∧
       Supplies [(1, .empty)] ((recordX s.env (0#16).toNat).toNat * (recordY s.env (0#16).toNat).toNat) ∧
       StreamHas s.env (8 * (recordBase s.env (0#16).toNat + 2)) (toksBits [(1, .empty)]) ∧
       s.env.cfg.bufLen = recordEnd s.env (0#16).toNat [(1, .empty)] + 1) := by decide

/-- DecodeMapEndsSealedOrFailed. -/
theorem test_witness_decode : midByte.env.cfg.wf ∧ midByte.smd.grid.length = midByte.env.cfg.gridCap := by decide

/-- FirstErrorStaysRecorded: a NEXT_BIT while `ERR = 1`. -/
theorem test_witness_first_error :
    let s := tiny [] fun r => { started 0#32 r with err := true, errKind := .bufferExhausted }
    encode (.nextBit 0#32) = .command 0x200000000#36 ∧ goesOn (exec (.nextBit 0#32) s) = true ∧ s.smd.err = true := by
  decide

/-- StepKeepsInvariant, StepNeverStops: an INIT for the second instance. -/
theorem test_witness_invariant :
    let s := { tiny [] id with host := [cmd 1 0x1#4] }
    Inv s ∧ AtBoundary s ∧ HostReady s ∧ goesOn (step s) = true := by decide

/-- StepKeepsInvariant, StepNeverStops: inside a token, where the machine is at no boundary. -/
theorem test_witness_invariant_token :
    let s := midByte.put { midByte.smd with token := .counter }
    Inv s ∧ HostReady s ∧ goesOn (step s) = true := by decide

/-- RegistersWithoutValueAreNotRead: instances that differ in `CUR_BYTE`, a size and the grid; and a fault. -/
theorem test_witness_valued :
    let s := tiny [] id
    let r := { s.smd with curByte := 0xFF#8, sizeX := 3#8, grid := List.replicate 9 .wall }
    valued r = valued s.smd ∧ r ≠ s.smd ∧ r.grid.length = s.smd.grid.length ∧
    goesOn (exec (.readStatus 0#32) s) = true ∧ goesOn (exec .cellWall s) = false := by decide

end Sys2Proof.Tests
end

section
/-! What each instruction can do to the SMD it acts on, said once: the relation `Effect` and the inversion lemma
`exec_effect`. Every statement about all instructions that does not need the answer itself is a case analysis of it. -/

namespace Sys2Proof.Machine

/-- How a command's work ends in the registers: with `OK(d)`, or with the raise of R141. -/
def Closes (c : Issuer) (x : Res Data) (q : Smd) : Prop :=
  (∃ d p, x = .ok d p ∧ q = respond d p) ∨ (∃ k a p, x = .raised k a p ∧ q = raiseError c k a p)

/-- The own work of the three gated primitives NEXT_BIT, NEXT_CELL and READ_BYTE (R80). -/
inductive PrimitiveBody (e : Env) (r : Smd) : Res Data → Prop
  | nextBit : PrimitiveBody e r ((fetchBit e r).map .bit)
  | nextCell : PrimitiveBody e r ((cellStep e r).map .cell)
  | readByte : PrimitiveBody e r ((readByteBody e r).map .byte)

/-- What an instruction makes of the registers `r` of the SMD it acts on. -/
inductive Effect (e : Env) (r : Smd) : Instr → Smd → Prop
  | reset (arg : BitVec 32) :
      Effect e r (.reset arg) (respond .none { Smd.powerOn e.cfg with refusalMark := r.refusalMark })
  | init (start : BitVec 32) : Effect e r (.init start) (respond .none (startCore start (clearStatus r)))
  | decodeMap {arg : BitVec 32} {m : MapIndex} {q : Smd}
      (h : Closes .decodeMap (decodeBody e m (startDecode m r)) q) : Effect e r (.decodeMap arg) q
  | refused (i : Instr) (why : Reason) : Effect e r i (refuse why r)
  | answered (i : Instr) (a : Response) : Effect e r i { r with response := some a }
  | primitive {i : Instr} {x : Res Data} {q : Smd} (hx : PrimitiveBody e r x) (h : Closes .primitive x q) :
      Effect e r i q
  | counter {i : Instr} {bits : List Bool} {k n : Nat} {p : Smd} (hi : encode i = .counter bits) (hn : 1 ≤ n ∧ n ≤ 9)
      (h : skipBits e k r = .ok () p) : Effect e r i { p with token := .code n }
  | cellCode {i : Instr} {bits : List Bool} {k n : Nat} {p : Smd} (hi : encode i = .cellCode bits) (c : Cell)
      (ht : r.token = .code n) (h : skipBits e k r = .ok () p) :
      Effect e r i (respond (.cell c) { storeToken n c p with token := .idle })
  | symbolCut {i : Instr} {k : Nat} {kind : ErrKind} {a : Nat} {p : Smd} (h : skipBits e k r = .raised kind a p) :
      Effect e r i { raiseError .primitive kind a p with token := .idle }

/-- A new acting SMD takes the acting one's place among all of them. -/
theorem put_all_eq_set (s : State) (q : Smd) : (s.put q).all = s.all.set s.before.length q := by
  simp [State.all, State.put]

/-! ### How the shared endings of the commands act -/

theorem finish_closes {c : Issuer} {s t : State} {x : Res Data} (h : finish c s x = .next t) :
    ∃ q, t = s.put q ∧ Closes c x q := by
  obtain ⟨d, p, hx, rfl⟩ | ⟨k, a, p, hx, rfl⟩ := finish_cases h
  · exact ⟨_, rfl, .inl ⟨d, p, hx, rfl⟩⟩
  · exact ⟨_, rfl, .inr ⟨k, a, p, hx, rfl⟩⟩

theorem gated_effect {i : Instr} {s t : State} {x : Res Data} (hx : PrimitiveBody s.env s.smd x)
    (h : gated s x = .next t) : ∃ q, t = s.put q ∧ Effect s.env s.smd i q := by
  obtain ⟨-, rfl⟩ | ⟨-, -, rfl⟩ | ⟨-, -, hf⟩ := gated_cases h
  · exact ⟨_, rfl, .refused i _⟩
  · exact ⟨_, rfl, .answered i _⟩
  · obtain ⟨q, rfl, hq⟩ := finish_closes hf
    exact ⟨q, rfl, .primitive hx hq⟩

/-- A lookup of the table leaves every register, and can raise (R107). -/
theorem resolveOffset_leaves {P : Smd → Prop} {e : Env} {i : MapIndex} {r : Smd} (h : P r) :
    (resolveOffset e i r).Leaves P := by
  unfold resolveOffset memRead16LE
  split
  · exact h
  · refine Res.Leaves.bind (P := P) ?_ (fun _ h => h) fun _ _ h => h
    exact (memRead_leaves h).bind (fun _ h => h) fun _ _ h => (memRead_leaves h).bind (fun _ h => h) fun _ _ h => h

theorem execResolve_effect {i : Instr} {arg : BitVec 32} {s t : State} (h : execResolve arg s = .next t) :
    ∃ q, t = s.put q ∧ Effect s.env s.smd i q := by
  unfold execResolve at h
  split at h
  · obtain rfl := Host.Outcome.next.inj h
    exact ⟨_, rfl, .refused i _⟩
  · rename_i m _
    have hl := resolveOffset_leaves (e := s.env) (i := m) (P := (· = s.smd)) rfl
    cases hx : resolveOffset s.env m s.smd with
    | ok a p =>
      rw [hx] at hl h
      obtain rfl : p = s.smd := hl
      obtain rfl := Host.Outcome.next.inj h
      exact ⟨_, rfl, .answered i _⟩
    | raised k a p =>
      rw [hx] at hl h
      obtain rfl : p = s.smd := hl
      obtain rfl := Host.Outcome.next.inj h
      exact ⟨_, rfl, .answered i _⟩
    | fault f => rw [hx] at h; cases h

theorem execReadMap_effect {i : Instr} {arg : BitVec 32} {s t : State} (h : execReadMap arg s = .next t) :
    ∃ q, t = s.put q ∧ Effect s.env s.smd i q := by
  unfold execReadMap gridCells at h
  split at h
  · obtain rfl := Host.Outcome.next.inj h
    exact ⟨_, rfl, .refused i _⟩
  · split at h
    · obtain rfl := Host.Outcome.next.inj h
      exact ⟨_, rfl, .answered i _⟩
    · cases h

theorem execDecodeMap_effect {arg : BitVec 32} {s t : State} (h : execDecodeMap arg s = .next t) :
    ∃ q, t = s.put q ∧ Effect s.env s.smd (.decodeMap arg) q := by
  unfold execDecodeMap at h
  split at h
  · obtain rfl := Host.Outcome.next.inj h
    exact ⟨_, rfl, .refused _ _⟩
  · obtain ⟨q, rfl, hq⟩ := finish_closes h
    exact ⟨q, rfl, .decodeMap hq⟩

theorem takeCounter_effect {i : Instr} {bits : List Bool} (hi : encode i = .counter bits) {k n : Nat}
    (hn : 1 ≤ n ∧ n ≤ 9) {s t : State} (h : takeCounter k n s = .next t) :
    ∃ q, t = s.put q ∧ Effect s.env s.smd i q := by
  obtain ⟨q, hx, rfl⟩ | ⟨kind, a, q, hx, rfl⟩ := finishSymbol_cases h
  · obtain ⟨_, p, hp, hq⟩ := Res.bind_eq_ok hx
    cases hq
    exact ⟨_, rfl, .counter hi hn hp⟩
  · obtain hp | ⟨_, _, _, hq⟩ := Res.bind_eq_raised hx
    · exact ⟨_, rfl, .symbolCut hp⟩
    · cases hq

theorem takeCellCode_effect {i : Instr} {bits : List Bool} (hi : encode i = .cellCode bits) {k : Nat} {c : Cell}
    {s t : State} (h : takeCellCode k c s = .next t) : ∃ q, t = s.put q ∧ Effect s.env s.smd i q := by
  unfold takeCellCode at h
  split at h
  · obtain ⟨q, hx, rfl⟩ | ⟨kind, a, q, hx, rfl⟩ := finishSymbol_cases h
    · obtain ⟨_, p, hp, hq⟩ := Res.bind_eq_ok hx
      cases hq
      exact ⟨_, rfl, .cellCode hi c ‹_› hp⟩
    · obtain hp | ⟨_, _, _, hq⟩ := Res.bind_eq_raised hx
      · exact ⟨_, rfl, .symbolCut hp⟩
      · cases hq
  · cases h
  · cases h

theorem refuse_effect {i : Instr} {why : Reason} {s t : State}
    (h : (.next (s.put (refuse why s.smd)) : Host.Outcome State Fault Refusal) = .next t) :
    ∃ q, t = s.put q ∧ Effect s.env s.smd i q :=
  ⟨_, (Host.Outcome.next.inj h).symm, .refused i why⟩

/-- An instruction that answers a next state replaces the acting SMD, by one of its effects, and nothing else. -/
theorem exec_effect {i : Instr} {s t : State} (h : exec i s = .next t) :
    ∃ q, t = s.put q ∧ Effect s.env s.smd i q := by
  cases i with
  | reset arg => exact ⟨_, (Host.Outcome.next.inj h).symm, .reset arg⟩
  | init start => exact ⟨_, (Host.Outcome.next.inj h).symm, .init start⟩
  | nextBit _ => exact gated_effect .nextBit h
  | nextCell _ => exact gated_effect .nextCell h
  | readByte _ => exact gated_effect .readByte h
  | resolve _ => exact execResolve_effect h
  | decodeMap _ => exact execDecodeMap_effect h
  | readStatus _ => exact ⟨_, (Host.Outcome.next.inj h).symm, .answered _ _⟩
  | readMap arg => exact execReadMap_effect (arg := arg) h
  | reserved9 _ | reservedA _ | reservedB _ | reservedC _ | reservedD _ | reservedE _ | reservedF _ =>
    exact refuse_effect h
  | run1 | run2 | run3 | run4 | run5 | run6 | run7 | run8 | run9 => exact takeCounter_effect rfl (by decide) h
  | cellEmpty | cellWall | cellBarrel | cellBarrelSlot | cellBarrelPlaced => exact takeCellCode_effect rfl h

end Sys2Proof.Machine

open Sys2Proof Sys2Proof.Machine Sys2Proof.Safety

/-- Settles O8: every effect is one on the acting SMD. -/
theorem noInstructionWritesOutsideItsSmd : Obligations.NoInstructionWritesOutsideItsSmd := by
  intro i s t h
  obtain ⟨q, rfl, -⟩ := exec_effect h
  exact ⟨rfl, rfl, fun _ => rfl⟩

/-- Settles O9: the command's SMD is moved into the focus, and the command replaces it alone. -/
theorem stepLeavesOtherSmdsAlone : Obligations.StepLeavesOtherSmdsAlone := by
  intro s t c rest htok hhost h
  simp only [step, htok, hhost] at h
  split at h
  · cases h
  · rename_i u hu
    obtain ⟨hall, hlen, -, henv, -⟩ := focus_some hu
    obtain ⟨q, rfl, -⟩ := exec_effect h
    have hset := put_all_eq_set { u with host := rest } q
    refine ⟨henv, rfl, ?_, fun k hk => ?_⟩
    · rw [hset, List.length_set]
      exact congrArg List.length hall
    · rw [hset, List.getElem?_set_ne (by rw [hlen]; exact hk.symm)]
      exact congrArg (·[k]?) hall

end

section
/-! How a stretch of pseudocode ends, with its value and with the kind of its raise: the triples from which the machine's
invariant and the cursor's order follow. -/

namespace Sys2Proof.Machine

/-- The stretch ends well with a value and registers in `Q`, or raises a kind of error with registers in `R`. -/
def Res.Ends {α : Type} (Q : α → Smd → Prop) (R : Smd → Prop) : Res α → Prop
  | .ok a r => Q a r
  | .raised k _ r => k ≠ .none ∧ R r
  | .fault _ => True

theorem Res.Ends.bind {α β : Type} {Q : α → Smd → Prop} {Q' : β → Smd → Prop} {R : Smd → Prop} {x : Res α}
    {f : α → Smd → Res β} (hx : x.Ends Q R) (hf : ∀ a r, Q a r → (f a r).Ends Q' R) : (x.bind f).Ends Q' R := by
  cases x with
  | ok a r => exact hf a r hx
  | raised k o r => exact hx
  | fault e => trivial

theorem Res.Ends.map {α β : Type} {P R : Smd → Prop} {x : Res α} (hx : x.Ends (fun _ => P) R) (f : α → β) :
    (x.map f).Ends (fun _ => P) R := Res.Ends.bind hx fun _ _ h => h

theorem Res.Leaves.map {α β : Type} {P : Smd → Prop} {x : Res α} (hx : x.Leaves P) (f : α → β) :
    (x.map f).Leaves P := Res.Leaves.bind hx (fun _ h => h) fun _ _ h => h

theorem Res.Ends.mono {α : Type} {Q Q' : α → Smd → Prop} {R R' : Smd → Prop} {x : Res α} (hx : x.Ends Q R)
    (hQ : ∀ a r, Q a r → Q' a r) (hR : ∀ r, R r → R' r) : x.Ends Q' R' := by
  cases x with
  | ok a r => exact hQ a r hx
  | raised k o r => exact ⟨hx.1, hR r hx.2⟩
  | fault e => trivial

theorem Res.Ends.and_leaves {α : Type} {Q : α → Smd → Prop} {R P : Smd → Prop} {x : Res α} (hx : x.Ends Q R)
    (hP : x.Leaves P) : x.Ends (fun a r => Q a r ∧ P r) (fun r => R r ∧ P r) := by
  cases x with
  | ok a r => exact ⟨hx, hP⟩
  | raised k o r => exact ⟨hx.1, hx.2, hP⟩
  | fault e => trivial

theorem Res.Ends.of_ok {α : Type} {Q : α → Smd → Prop} {R : Smd → Prop} {x : Res α} (hx : x.Ends Q R) {a : α} {r : Smd}
    (h : x = .ok a r) : Q a r := by subst h; exact hx

theorem Res.Ends.of_raised {α : Type} {Q : α → Smd → Prop} {R : Smd → Prop} {x : Res α} (hx : x.Ends Q R)
    {k : ErrKind} {o : Nat} {r : Smd} (h : x = .raised k o r) : k ≠ .none ∧ R r := by subst h; exact hx

theorem Res.Leaves.of_ok {α : Type} {P : Smd → Prop} {x : Res α} (hx : x.Leaves P) {a : α} {r : Smd}
    (h : x = .ok a r) : P r := by subst h; exact hx

theorem Res.Leaves.of_raised {α : Type} {P : Smd → Prop} {x : Res α} (hx : x.Leaves P) {k : ErrKind} {o : Nat} {r : Smd}
    (h : x = .raised k o r) : P r := by subst h; exact hx

/-- What a command leaves has a property that OK's response and the command's raise give. -/
theorem Closes.of_ends {P : Smd → Prop} {c : Issuer} {x : Res Data} {q : Smd} {Q : Data → Smd → Prop} {R : Smd → Prop}
    (h : Closes c x q) (hx : x.Ends Q R) (hok : ∀ d r, Q d r → P (respond d r))
    (herr : ∀ k a r, k ≠ .none → R r → P (raiseError c k a r)) : P q := by
  obtain ⟨d, p, rfl, rfl⟩ | ⟨k, a, p, rfl, rfl⟩ := h
  · exact hok d p hx
  · exact herr k a p hx.1 hx.2

theorem Closes.of_leaves {P P' : Smd → Prop} {c : Issuer} {x : Res Data} {q : Smd} (h : Closes c x q)
    (hx : x.Leaves P) (hok : ∀ d r, P r → P' (respond d r)) (herr : ∀ k a r, P r → P' (raiseError c k a r)) : P' q := by
  obtain ⟨d, p, rfl, rfl⟩ | ⟨k, a, p, rfl, rfl⟩ := h
  · exact hok d p hx
  · exact herr k a p hx

theorem memRead_ends {P : Smd → Prop} {e : Env} {a : Nat} {r : Smd} (h : P r) :
    (memRead e a r).Ends (fun _ => P) P := by
  unfold memRead
  split
  · exact ⟨by decide, h⟩
  · exact h

theorem resolveOffset_ends {P : Smd → Prop} {e : Env} {i : MapIndex} {r : Smd} (h : P r) :
    (resolveOffset e i r).Ends (fun _ => P) P := by
  unfold resolveOffset memRead16LE
  split
  · exact ⟨by decide, h⟩
  · refine Res.Ends.bind (Q := fun _ => P) ?_ fun _ _ h => h
    exact (memRead_ends h).bind fun _ _ h => (memRead_ends h).bind fun _ _ h => h

end Sys2Proof.Machine

namespace Sys2Proof.Safety

open Sys2Proof.Machine

/-! ### The core: bits, tokens and cells -/

/-- From `r` on, the cursor did not move back, and R24 holds. -/
def Advances (e : Env) (r q : Smd) : Prop := position r ≤ position q ∧ CoreOk e q

theorem Advances.refl {e : Env} {r : Smd} (h : CoreOk e r) : Advances e r r := ⟨le_refl _, h⟩

/-- Writing the run alone keeps R24, where it allows the run. -/
theorem coreOk_setRun {e : Env} {q : Smd} (h : CoreOk e q) {n : Count} {c : Option Cell} (hn : n ≤ 8#4)
    (hc : c ≠ none) : CoreOk e { q with pending := n, cached := c } :=
  ⟨fun _ => hc, h.2.1, hn, h.2.2.2⟩

/-- With no bit left, R24 asks of the run alone. -/
theorem coreOk_of_drained {e : Env} {q : Smd} (hb : q.bitsLeft = 0#4) (hrun : 0#4 < q.pending → q.cached ≠ none)
    (hp : q.pending ≤ 8#4) : CoreOk e q :=
  ⟨hrun, by simp [hb], hp, by simp [hb]⟩

theorem coreOk_storeToken {e : Env} {q : Smd} (h : CoreOk e q) {n : Nat} (hn : 1 ≤ n ∧ n ≤ 9) (c : Cell) :
    CoreOk e (storeToken n c q) := by
  refine coreOk_setRun h ?_ (Option.some_ne_none c)
  rw [BitVec.le_def, toNat_countOf (by omega)]
  exact Nat.sub_le_of_le_add hn.2

theorem continueRun_ends {e : Env} {r q : Smd} (h : Advances e r q) (hp : 0#4 < q.pending) :
    (continueRun q).Ends (fun _ => Advances e r) (Advances e r) := by
  unfold continueRun
  split
  · split
    · rename_i c hc h8
      exact ⟨h.1, coreOk_setRun h.2 (c := q.cached) (by bv_omega) (h.2.1 hp)⟩
    · trivial
  · trivial

section
variable {e : Env} (hw : e.cfg.wf) {r q : Smd}
include hw

theorem fetchBit_ends (h : Advances e r q) : (fetchBit e q).Ends (fun _ => Advances e r) (Advances e r) := by
  obtain ⟨hpos, hcore⟩ := h
  by_cases hp : position q < 8 * e.cfg.bufLen
  · rw [fetchBit_stream hcore hw hp]
    refine ⟨?_, coreOk_atPosition hp hw hcore⟩
    rw [position_atPosition hp hw]
    omega
  · rw [fetchBit_end hcore (by omega)]
    exact ⟨by decide, hpos, hcore⟩

theorem skipBits_ends (k : Nat) (h : Advances e r q) :
    (skipBits e k q).Ends (fun _ => Advances e r) (Advances e r) := by
  induction k generalizing q with
  | zero => exact h
  | succ k ih => exact (fetchBit_ends hw h).bind fun _ _ h => ih h

theorem readCounter_ends (h : Advances e r q) :
    (readCounter e q).Ends (fun n p => (1 ≤ n ∧ n ≤ 9) ∧ Advances e r p) (Advances e r) := by
  unfold readCounter
  refine (fetchBit_ends hw h).bind fun b _ h => ?_
  split
  · exact ⟨by decide, h⟩
  · refine (fetchBit_ends hw h).bind fun d3 _ h => (fetchBit_ends hw h).bind fun d2 _ h =>
      (fetchBit_ends hw h).bind fun d1 _ h => ⟨?_, h⟩
    have := Bool.toNat_le d3
    have := Bool.toNat_le d2
    have := Bool.toNat_le d1
    omega

theorem readCellCode_ends (h : Advances e r q) :
    (readCellCode e q).Ends (fun _ => Advances e r) (Advances e r) := by
  unfold readCellCode
  refine (fetchBit_ends hw h).bind fun a _ h => (fetchBit_ends hw h).bind fun b _ h => ?_
  match a, b with
  | false, false | false, true | true, false => exact h
  | true, true =>
    refine (fetchBit_ends hw h).bind fun c _ h => ?_
    cases c <;> exact h

theorem freshToken_ends (h : Advances e r q) : (freshToken e q).Ends (fun _ => Advances e r) (Advances e r) :=
  (readCounter_ends hw h).bind fun _ _ hn => (readCellCode_ends hw hn.2).bind fun _ _ h =>
    ⟨h.1, coreOk_storeToken h.2 hn.1 _⟩

theorem cellStep_ends (h : Advances e r q) : (cellStep e q).Ends (fun _ => Advances e r) (Advances e r) := by
  unfold cellStep
  split
  · exact continueRun_ends h ‹_›
  · exact freshToken_ends hw h

theorem readByteBody_ends (h : CoreOk e r) : (readByteBody e r).Ends (fun _ => Advances e r) (Advances e r) := by
  unfold readByteBody memRead
  split
  · exact ⟨by decide, .refl h⟩
  · have hb := hw.1
    refine ⟨?_, coreOk_of_drained rfl h.1 h.2.2.1⟩
    have hnext : (r.bytePtr + 1#32).toNat = r.bytePtr.toNat + 1 := by bv_omega
    unfold position
    rw [hnext, show (0#4 : Count).toNat = 0 from rfl]
    omega

/-- A primitive's own work moves the cursor forward. -/
theorem primitiveBody_ends {x : Res Data} (hx : PrimitiveBody e r x) (h : CoreOk e r) :
    x.Ends (fun _ => Advances e r) (Advances e r) := by
  cases hx with
  | nextBit => exact (fetchBit_ends hw (.refl h)).map _
  | nextCell => exact (cellStep_ends hw (.refl h)).map _
  | readByte => exact (readByteBody_ends hw h).map _

end

/-! ### The registers outside the core -/

theorem readByteBody_coreOnly (e : Env) (r : Smd) : (readByteBody e r).Leaves (CoreOnly r) :=
  (memRead_leaves (.refl r)).bind (fun _ h => h) fun _ _ h => h.trans rfl

/-- A primitive's own work writes core registers alone (R90). -/
theorem primitiveBody_coreOnly {e : Env} {r : Smd} {x : Res Data} (hx : PrimitiveBody e r x) :
    x.Leaves (CoreOnly r) := by
  cases hx with
  | nextBit => exact (fetchBit_coreOnly e r).map _
  | nextCell => exact (cellStep_coreOnly e r).map _
  | readByte => exact (readByteBody_coreOnly e r).map _

/-- The registers of the map assembler (R26, R27, R28). -/
def mapRegisters (r : Smd) : Bool × Byte × Byte × List Cell × Byte × Byte × Byte × Byte × MapIndex :=
  (r.mapValid, r.sizeX, r.sizeY, r.grid, r.manX, r.manY, r.row, r.col, r.mapIdx)

theorem mapRegisters_of_coreOnly {r q : Smd} (h : CoreOnly r q) : mapRegisters q = mapRegisters r :=
  Eq.trans (congrArg mapRegisters h) rfl

/-- RESET and DECODE_MAP alone write the registers of the map assembler. -/
theorem mapRegisters_of_effect {e : Env} {r q : Smd} {i : Instr} (h : Effect e r i q)
    (hreset : ∀ arg, i ≠ .reset arg) (hdecode : ∀ arg, i ≠ .decodeMap arg) : mapRegisters q = mapRegisters r := by
  cases h with
  | reset arg => exact absurd rfl (hreset arg)
  | decodeMap => exact absurd rfl (hdecode _)
  | init | refused | answered => rfl
  | primitive hx hc =>
    exact hc.of_leaves (P' := (mapRegisters · = mapRegisters r)) (primitiveBody_coreOnly hx)
      (fun _ _ h => (mapRegisters_of_coreOnly h :)) fun _ _ _ h => (mapRegisters_of_coreOnly h :)
  | counter _ _ hs | cellCode _ _ _ hs => exact (mapRegisters_of_coreOnly ((skipBits_coreOnly e _ r).of_ok hs) :)
  | symbolCut hs => exact (mapRegisters_of_coreOnly ((skipBits_coreOnly e _ r).of_raised hs) :)

end Sys2Proof.Safety

open Sys2Proof Sys2Proof.Machine Sys2Proof.Safety

/-- Settles O22: what a primitive or a symbol does to the cursor is an advance, and the other effects do not write it. -/
theorem cursorOnlyMovesForward : Obligations.CursorOnlyMovesForward := by
  intro i s t hcore hw h hreset hinit hdecode
  obtain ⟨q, rfl, hq⟩ := exec_effect h
  cases hq with
  | reset arg => exact absurd rfl (hreset arg)
  | init start => exact absurd rfl (hinit start)
  | decodeMap => exact absurd rfl (hdecode _)
  | refused | answered => exact le_refl _
  | primitive hx hc =>
    exact hc.of_ends (P := (position s.smd ≤ position ·)) (primitiveBody_ends hw hx hcore) (fun _ _ h => h.1)
      fun _ _ _ _ h => h.1
  | counter _ _ hs | cellCode _ _ _ hs => exact ((skipBits_ends hw _ (.refl hcore)).of_ok hs).1
  | symbolCut hs => exact ((skipBits_ends hw _ (.refl hcore)).of_raised hs).2.1

/-- Settles O46: what the other effects write is the core, the status, the token and the response. -/
theorem sealedMapIsImmutable : Obligations.SealedMapIsImmutable := by
  intro i s t h hreset hdecode
  obtain ⟨q, rfl, hq⟩ := exec_effect h
  simpa [mapRegisters] using mapRegisters_of_effect hq hreset hdecode
end

section
/-! The machine's invariant: it holds at power-on, every effect of an instruction keeps it, and so does every step. -/

namespace Sys2Proof.Safety

open Sys2Proof.Machine

/-! ### The invariant of one SMD, by what is written -/

theorem smdOk_powerOn (e : Env) : SmdOk e (Smd.powerOn e.cfg) := by
  exact ⟨coreOk_of_drained rfl nofun (by decide : 0#4 ≤ 8#4), nofun, ⟨fun _ => ⟨rfl, rfl, rfl⟩, nofun⟩,
    List.length_replicate, rfl, rfl⟩

theorem smdOk_of_coreOnly {e : Env} {r q : Smd} (hr : SmdOk e r) (h : CoreOnly r q) (hq : CoreOk e q) : SmdOk e q := by
  refine ⟨hq, ?_⟩
  rw [show q = _ from h]
  exact hr.2

theorem smdOk_recordError {e : Env} {r : Smd} (h : SmdOk e r) {k : ErrKind} (hk : k ≠ .none) (m : MapIndex) (a : Nat) :
    SmdOk e (recordError k m a r) := by
  obtain ⟨hcore, hmap, -, hgrid, hidx, htok⟩ := h
  exact ⟨hcore, hmap, ⟨nofun, fun _ => hk⟩, hgrid, hidx, htok⟩

theorem smdOk_clearStatus {e : Env} {r : Smd} (h : SmdOk e r) : SmdOk e (clearStatus r) := by
  obtain ⟨hcore, hmap, -, hgrid, hidx, htok⟩ := h
  exact ⟨hcore, hmap, ⟨fun _ => ⟨rfl, rfl, rfl⟩, nofun⟩, hgrid, hidx, htok⟩

theorem smdOk_setToken {e : Env} {r : Smd} (h : SmdOk e r) {t : Token} (ht : tokenOk t = true) :
    SmdOk e { r with token := t } := by
  obtain ⟨hcore, hmap, hstatus, hgrid, hidx, -⟩ := h
  exact ⟨hcore, hmap, hstatus, hgrid, hidx, ht⟩

/-- With nothing latched and no run, R24 asks nothing of the cursor. -/
theorem coreOk_startCore (e : Env) (a : Offset) (r : Smd) : CoreOk e (startCore a r) :=
  coreOk_of_drained rfl nofun (by decide : 0#4 ≤ 8#4)

theorem smdOk_startCore {e : Env} {r : Smd} (h : SmdOk e r) (a : Offset) : SmdOk e (startCore a r) := by
  obtain ⟨-, hmap, hstatus, hgrid, hidx, -⟩ := h
  exact ⟨coreOk_startCore e a r, hmap, hstatus, hgrid, hidx, rfl⟩

theorem tokenOk_code {n : Nat} : tokenOk (.code n) = true ↔ 1 ≤ n ∧ n ≤ 9 := by simp [tokenOk]

/-- A stretch that advances the cursor and writes core registers alone keeps the invariant of an SMD. -/
theorem ends_smdOk {α : Type} {e : Env} {r : Smd} {x : Res α} (hr : SmdOk e r)
    (hx : x.Ends (fun _ => Advances e r) (Advances e r)) (hl : x.Leaves (CoreOnly r)) :
    x.Ends (fun _ => SmdOk e) (SmdOk e) :=
  (hx.and_leaves hl).mono (fun _ _ h => smdOk_of_coreOnly hr h.2 h.1.2) fun _ h => smdOk_of_coreOnly hr h.2 h.1.2

/-! ### DECODE_MAP, stretch by stretch -/

/-- Closing the core and MAP_IDX, all that is left of a DECODE_MAP, gives an SMD as it should be. -/
def Closing (e : Env) (r : Smd) : Prop := SmdOk e (endDecode r) ∧ r.token = .idle

/-- Inside DECODE_MAP, before the seal. -/
def Unsealed (e : Env) (r : Smd) : Prop := Closing e r ∧ r.mapValid = false

/-- Inside DECODE_MAP after the dimension check (R113). -/
def Sized (e : Env) (r : Smd) : Prop := Unsealed e r ∧ r.sizeX.toNat < e.cfg.maxX ∧ r.sizeY.toNat < e.cfg.maxY

theorem unsealed_startDecode {e : Env} {r : Smd} (h : SmdOk e r) (i : MapIndex) : Unsealed e (startDecode i r) := by
  obtain ⟨hcore, -, -, hgrid, -, -⟩ := h
  exact ⟨⟨⟨hcore, nofun, ⟨fun _ => ⟨rfl, rfl, rfl⟩, nofun⟩, hgrid, rfl, rfl⟩, rfl⟩, rfl⟩

/-- Only the Map registers and the loop counters differ from `r`. -/
def MapOnly (r q : Smd) : Prop :=
  q = { r with
    sizeX := q.sizeX, sizeY := q.sizeY, manX := q.manX, manY := q.manY, row := q.row, col := q.col, grid := q.grid }

/-- Before the seal the Map registers are free (R29). -/
theorem Unsealed.of_mapOnly {e : Env} {r q : Smd} (h : Unsealed e r) (hr : MapOnly r q)
    (hg : q.grid.length = r.grid.length) : Unsealed e q := by
  obtain ⟨⟨⟨hcore, -, hstatus, hgrid, hidx, htok⟩, hidle⟩, hv⟩ := h
  rw [show q = _ from hr]
  exact ⟨⟨⟨hcore, fun h => absurd (hv.symm.trans h) (by decide), hstatus, hg.trans hgrid, hidx, htok⟩, hidle⟩, hv⟩

theorem Unsealed.of_coreOnly {e : Env} {r q : Smd} (h : Unsealed e r) (hr : CoreOnly r q) (hq : CoreOk e q) :
    Unsealed e q := by
  have hend : SmdOk e (endDecode q) := smdOk_of_coreOnly h.1.1 (congrArg endDecode hr) hq
  exact ⟨⟨hend, (congrArg Smd.token hr).trans h.1.2⟩, (congrArg Smd.mapValid hr).trans h.2⟩

theorem Sized.of_coreOnly {e : Env} {r q : Smd} (h : Sized e r) (hr : CoreOnly r q) (hq : CoreOk e q) : Sized e q := by
  refine ⟨h.1.of_coreOnly hr hq, ?_⟩
  rw [show q = _ from hr]
  exact h.2

theorem Unsealed.coreOk {e : Env} {r : Smd} (h : Unsealed e r) : CoreOk e r := h.1.1.1

theorem readProlog_ends {e : Env} {base : Nat} {r : Smd} (h : Unsealed e r) :
    (readProlog e base r).Ends (fun _ => Sized e) (Unsealed e) := by
  unfold readProlog
  refine (memRead_ends h).bind fun x p h => ?_
  have hx : Unsealed e { p with sizeX := x } := h.of_mapOnly rfl rfl
  refine (memRead_ends hx).bind fun y q h => ?_
  have hset : Unsealed e { q with sizeY := y } := h.of_mapOnly rfl rfl
  dsimp only
  split
  · exact ⟨by decide, hset⟩
  · rename_i hdim
    rw [not_or, not_le, not_le] at hdim
    exact ⟨hset, hdim⟩

theorem Sized.startCore {e : Env} {r : Smd} (h : Sized e r) (a : Offset) : Sized e (startCore a r) := by
  obtain ⟨⟨⟨⟨-, hmap, hstatus, hgrid, hidx, -⟩, -⟩, hv⟩, hsize⟩ := h
  exact ⟨⟨⟨⟨coreOk_startCore e a r, hmap, hstatus, hgrid, hidx, rfl⟩, rfl⟩, hv⟩, hsize⟩

theorem cellStep_sized {e : Env} (hw : e.cfg.wf) {r : Smd} (h : Sized e r) :
    (cellStep e r).Ends (fun _ => Sized e) (Sized e) :=
  ((cellStep_ends hw (.refl h.1.coreOk)).and_leaves (cellStep_coreOnly e r)).mono
    (fun _ _ hq => h.of_coreOnly hq.2 hq.1.2) fun _ hq => h.of_coreOnly hq.2 hq.1.2

theorem gridWrite_sized {e : Env} {r : Smd} (h : Sized e r) (k : Nat) (c : Cell) :
    (gridWrite k c r).Ends (fun _ => Sized e) (Sized e) := by
  unfold gridWrite
  split
  · exact ⟨h.1.of_mapOnly rfl (List.length_set ..), h.2⟩
  · trivial

theorem fillColumns_sized {e : Env} (hw : e.cfg.wf) (row n col : Nat) {r : Smd} (h : Sized e r) :
    (fillColumns e row n col r).Ends (fun _ => Sized e) (Sized e) := by
  induction n generalizing col r with
  | zero => exact h
  | succ n ih =>
    have hcol : Sized e { r with col := byteOf col } := ⟨h.1.of_mapOnly rfl rfl, h.2⟩
    exact (cellStep_sized hw hcol).bind fun c _ h => (gridWrite_sized h _ c).bind fun _ _ h => ih (col + 1) h

theorem fillRows_sized {e : Env} (hw : e.cfg.wf) (n row : Nat) {r : Smd} (h : Sized e r) :
    (fillRows e n row r).Ends (fun _ => Sized e) (Sized e) := by
  induction n generalizing row r with
  | zero => exact h
  | succ n ih =>
    have hrow : Sized e { r with row := byteOf row } := ⟨h.1.of_mapOnly rfl rfl, h.2⟩
    exact (fillColumns_sized hw row _ 0 hrow).bind fun _ _ h => ih (row + 1) h

theorem readEpilog_sized {e : Env} {r : Smd} (h : Sized e r) : (readEpilog e r).Ends (fun _ => Sized e) (Sized e) := by
  unfold readEpilog
  refine (memRead_ends h).bind fun x p h => ?_
  have hx : Sized e { p with manX := x } := ⟨h.1.of_mapOnly rfl rfl, h.2⟩
  refine (memRead_ends hx).bind fun y q h => ?_
  have hy : Unsealed e { q with manY := y } := h.1.of_mapOnly rfl rfl
  obtain ⟨hrun, -, hpend, -⟩ := h.1.coreOk
  exact ⟨hy.of_coreOnly rfl (coreOk_of_drained rfl hrun hpend), h.2⟩

theorem gridRead_ends (k : Nat) (r : Smd) :
    (gridRead k r).Ends (fun c q => q = r ∧ r.grid[k]? = some c) (fun _ => False) := by
  unfold gridRead
  split
  · split
    · exact ⟨rfl, ‹_›⟩
    · trivial
  · trivial

/-- A seal stands on the checks of the player's position and placement (R29, R118, R119). -/
theorem placePlayer_ends {e : Env} {base : Nat} {r : Smd} (h : Sized e r) :
    (placePlayer e base r).Ends (fun _ => Closing e) (Unsealed e) := by
  unfold placePlayer
  split
  · exact ⟨by decide, h.1⟩
  · rename_i hpos
    refine ((gridRead_ends _ r).mono (fun _ _ h => h) fun _ h => h.elim).bind ?_
    rintro c q ⟨rfl, hc⟩
    split
    · rename_i hempty
      subst hempty
      obtain ⟨⟨⟨⟨hcore, -, hstatus, hgrid, hidx, htok⟩, hidle⟩, -⟩, hx, hy⟩ := h
      have hin : 1 ≤ q.sizeX.toNat ∧ 1 ≤ q.sizeY.toNat ∧
          q.manX.toNat < q.sizeX.toNat ∧ q.manY.toNat < q.sizeY.toNat := by
        omega
      obtain ⟨hx1, hy1, hmx, hmy⟩ := hin
      exact ⟨⟨hcore, fun _ => ⟨hx1, hx, hy1, hy, hmx, hmy, hc⟩, hstatus, hgrid, hidx, htok⟩, hidle⟩
    · exact ⟨by decide, h.1⟩

theorem decodeBody_ends {e : Env} (hw : e.cfg.wf) {i : MapIndex} {r : Smd} (h : Unsealed e r) :
    (decodeBody e i r).Ends (fun _ q => SmdOk e q ∧ q.token = .idle) (Unsealed e) := by
  unfold decodeBody
  refine (resolveOffset_ends h).bind fun base _ h => (readProlog_ends h).bind fun _ _ h => ?_
  refine ((fillRows_sized hw _ 0 (h.startCore _)).mono (fun _ _ h => h) fun _ h => h.1).bind fun _ _ h => ?_
  refine ((readEpilog_sized h).mono (fun _ _ h => h) fun _ h => h.1).bind fun _ _ h => ?_
  exact (placePlayer_ends h).bind fun _ _ h => h

/-- A DECODE_MAP, however it ends, leaves its SMD as it should be between commands. -/
theorem decodeMap_closes {e : Env} (hw : e.cfg.wf) {i : MapIndex} {r q : Smd} (hr : SmdOk e r)
    (h : Closes .decodeMap (decodeBody e i (startDecode i r)) q) : SmdOk e q ∧ q.token = .idle :=
  h.of_ends (P := fun q => SmdOk e q ∧ q.token = .idle) (decodeBody_ends hw (unsealed_startDecode hr i)) (fun _ _ h => h)
    fun _ a p hk h => ⟨smdOk_recordError h.1.1 hk p.mapIdx a, h.1.2⟩

/-! ### Every effect, and every step -/

theorem smdOk_of_effect {e : Env} (hw : e.cfg.wf) {i : Instr} {r q : Smd} (hr : SmdOk e r) (h : Effect e r i q) :
    SmdOk e q := by
  have hskip (k : Nat) := ends_smdOk hr (skipBits_ends hw k (.refl hr.1)) (skipBits_coreOnly e k r)
  cases h with
  | reset arg => exact smdOk_powerOn e
  | init start => exact smdOk_startCore (smdOk_clearStatus hr) start
  | decodeMap h => exact (decodeMap_closes hw hr h).1
  | refused | answered => exact hr
  | primitive hx h =>
    exact h.of_ends (P := SmdOk e) (ends_smdOk hr (primitiveBody_ends hw hx hr.1) (primitiveBody_coreOnly hx))
      (fun _ _ h => h) fun _ a _ hk h => smdOk_recordError h hk noMap a
  | counter _ hn h => exact smdOk_setToken ((hskip _).of_ok h) (tokenOk_code.mpr hn)
  | cellCode _ c ht h =>
    have hp := (hskip _).of_ok h
    have hn := tokenOk_code.mp (ht ▸ hr.2.2.2.2.2)
    have hs : SmdOk e (storeToken _ c _) := smdOk_of_coreOnly hp rfl (coreOk_storeToken hp.1 hn c)
    exact smdOk_setToken hs rfl
  | symbolCut h =>
    obtain ⟨hk, hp⟩ := (hskip _).of_raised h
    exact smdOk_setToken (smdOk_recordError hp hk noMap _) rfl

/-- Only the bitstream's symbols leave the boundary between commands. -/
theorem token_of_effect {e : Env} (hw : e.cfg.wf) {i : Instr} {w : BitVec 36} (hi : encode i = .command w) {r q : Smd}
    (hr : SmdOk e r) (htok : r.token = .idle) (h : Effect e r i q) : q.token = .idle := by
  cases h with
  | reset | init | symbolCut => rfl
  | decodeMap h => exact (decodeMap_closes hw hr h).2
  | refused | answered => exact htok
  | primitive hx h =>
    exact h.of_leaves (P' := (·.token = .idle)) (primitiveBody_coreOnly hx)
      (fun _ _ h => (congrArg Smd.token h).trans htok) fun _ _ _ h => (congrArg Smd.token h).trans htok
  | counter hc | cellCode hc => cases hi.symm.trans hc

theorem encode_decodeCommand (cmd : BitVec 4) (arg : BitVec 32) : ∃ w, encode (decodeCommand cmd arg) = .command w := by
  unfold decodeCommand
  split <;> exact ⟨_, rfl⟩

/-- A property of every SMD stays where the new acting SMD has it. -/
theorem forall_put_all {P : Smd → Prop} {s : State} {q : Smd} (hs : ∀ r ∈ s.all, P r) (hq : P q) :
    ∀ r ∈ (s.put q).all, P r := by
  intro r hr
  rw [put_all_eq_set] at hr
  obtain h | rfl := List.mem_or_eq_of_mem_set hr
  · exact hs r h
  · exact hq

theorem smd_mem_all (s : State) : s.smd ∈ s.all := by simp [State.all]

theorem inv_put {s : State} {q : Smd} (hs : Inv s) (hq : SmdOk s.env q) : Inv (s.put q) :=
  ⟨hs.1, hs.2.1, forall_put_all hs.2.2 hq⟩

theorem inv_exec {i : Instr} {s t : State} (hs : Inv s) (h : exec i s = .next t) : Inv t := by
  obtain ⟨q, rfl, hq⟩ := exec_effect h
  exact inv_put hs (smdOk_of_effect hs.1 (hs.2.2 _ (smd_mem_all s)) hq)

theorem inv_finishSymbol {s t : State} {x : Res Unit} (hs : Inv s) (hx : x.Ends (fun _ => SmdOk s.env) (SmdOk s.env))
    (h : finishSymbol s x = .next t) : Inv t := by
  obtain ⟨q, hq, rfl⟩ | ⟨k, a, q, hq, rfl⟩ := finishSymbol_cases h
  · exact inv_put hs (hx.of_ok hq)
  · obtain ⟨hk, hp⟩ := hx.of_raised hq
    exact inv_put hs (smdOk_setToken (smdOk_recordError hp hk noMap a) rfl)

theorem inv_cutCounter {s t : State} (hs : Inv s) (h : cutCounter s = .next t) : Inv t := by
  have hr := hs.2.2 _ (smd_mem_all s)
  have hx := (readCounter_ends hs.1 (.refl hr.1)).mono (fun _ _ h => h.2) fun _ h => h
  exact inv_finishSymbol hs ((ends_smdOk hr hx (readCounter_coreOnly _ _)).map _) h

theorem inv_cutCellCode {s t : State} (hs : Inv s) (h : cutCellCode s = .next t) : Inv t := by
  have hr := hs.2.2 _ (smd_mem_all s)
  have hx := ends_smdOk hr (readCellCode_ends hs.1 (.refl hr.1)) (readCellCode_coreOnly_of (.refl _))
  exact inv_finishSymbol hs (hx.map _) h

/-- What a step that answers a next state does: a symbol of the token that is being read, nothing, or the oldest command
issued. -/
theorem step_cases {s t : State} (h : step s = .next t) :
    (s.smd.token ≠ .idle ∧ ((∃ i, exec i s = .next t) ∨ cutCounter s = .next t ∨ cutCellCode s = .next t)) ∨
    (s.smd.token = .idle ∧ s.host = [] ∧ t = s) ∨
    (s.smd.token = .idle ∧ ∃ c rest u, s.host = c :: rest ∧ s.focus c.smdNo = some u ∧
      exec (decodeCommand c.cmd c.arg) { u with host := rest } = .next t) := by
  unfold step at h
  split at h
  · rename_i htok
    refine .inl ⟨by simp [htok], ?_⟩
    split at h
    · exact .inl ⟨_, h⟩
    · exact .inr (.inl h)
  · rename_i htok
    refine .inl ⟨by simp [htok], ?_⟩
    split at h
    · exact .inl ⟨_, h⟩
    · exact .inr (.inr h)
  · rename_i htok
    split at h
    · exact .inr (.inl ⟨htok, ‹_›, (Host.Outcome.next.inj h).symm⟩)
    · split at h
      · cases h
      · exact .inr (.inr ⟨htok, _, _, _, ‹_›, ‹_›, h⟩)

end Sys2Proof.Safety

open Sys2Proof Sys2Proof.Machine Sys2Proof.Safety

/-- Settles O48: the one SMD is at power-on. -/
theorem invariantHoldsAtReset : Obligations.InvariantHoldsAtReset := by
  have hall : ∀ r ∈ State.reset.all, r = Smd.powerOn Params.source := by
    simp [State.all, State.reset, State.powerOn]
  refine ⟨⟨by decide, rfl, fun r hr => ?_⟩, fun r hr => ?_⟩
  · exact hall r hr ▸ smdOk_powerOn State.reset.env
  · exact hall r hr ▸ rfl

/-- Settles O49: the effect of the step's instruction keeps the acting SMD as it should be, and the other SMDs,
the configuration and the buffer stay. -/
theorem stepKeepsInvariant : Obligations.StepKeepsInvariant := by
  intro s t h hs
  obtain ⟨htok, ⟨i, h⟩ | h | h⟩ | ⟨-, -, rfl⟩ | ⟨-, c, rest, u, -, hu, h⟩ := step_cases h
  · exact ⟨inv_exec hs h, fun hb => absurd (hb _ (smd_mem_all s)) htok⟩
  · exact ⟨inv_cutCounter hs h, fun hb => absurd (hb _ (smd_mem_all s)) htok⟩
  · exact ⟨inv_cutCellCode hs h, fun hb => absurd (hb _ (smd_mem_all s)) htok⟩
  · exact ⟨hs, id⟩
  · obtain ⟨hall, -, -, henv, -⟩ := focus_some hu
    have hinv : Inv { u with host := rest } := by
      obtain ⟨hw, hbuf, hsmd⟩ := hs
      exact ⟨henv ▸ hw, henv ▸ hbuf, fun r hr => henv ▸ hsmd r (hall ▸ hr)⟩
    refine ⟨inv_exec hinv h, fun hb => ?_⟩
    obtain ⟨q, rfl, hq⟩ := exec_effect h
    obtain ⟨w, hi⟩ := encode_decodeCommand c.cmd c.arg
    have hidle : ∀ r ∈ State.all { u with host := rest }, r.token = .idle := fun r hr => hb r (hall ▸ hr)
    have hu := smd_mem_all { u with host := rest }
    exact forall_put_all hidle (token_of_effect hinv.1 hi (hinv.2.2 _ hu) (hidle _ hu) hq)
end

section
/-! Registers that hold no value are not read: two SMDs that agree on the others run every stretch of pseudocode
alike (R35). DECODE_MAP relates more than that, while it writes the registers of a Map that is not sealed yet. -/

namespace Sys2Proof.Safety

open Sys2Proof.Machine

/-! ### Instances that agree on every register that holds a value -/

/-- The SMDs agree on the registers that hold a value, and their grid stores have one size. -/
def Agree (r q : Smd) : Prop := valued r = valued q ∧ r.grid.length = q.grid.length

theorem Agree.refl (r : Smd) : Agree r r := ⟨rfl, rfl⟩

/-- An update `f` that acts on the registers with a value as some `g`, and leaves the grid, keeps the agreement. -/
theorem Agree.update {r q : Smd} (h : Agree r q) (f g : Smd → Smd) (hv : ∀ p, valued (f p) = g (valued p))
    (hg : ∀ p, (f p).grid = p.grid) : Agree (f r) (f q) := by
  refine ⟨?_, ?_⟩
  · rw [hv, hv, h.1]
  · rw [hg, hg, h.2]

/-- A register of which `valued` keeps the value. -/
theorem Agree.field {β : Type} {r q : Smd} (h : Agree r q) (f : Smd → β) (hf : ∀ p, f (valued p) = f p) : f r = f q := by
  rw [← hf r, ← hf q, h.1]

theorem Agree.curByte {r q : Smd} (h : Agree r q) (h0 : q.bitsLeft ≠ 0#4) : r.curByte = q.curByte := by
  have hb : r.bitsLeft = q.bitsLeft := h.field _ fun _ => rfl
  have hc : (valued r).curByte = (valued q).curByte := congrArg _ h.1
  simpa [valued, hb, h0] using hc

/-- The Map registers agree while a Map is sealed (R28). -/
theorem Agree.sealedMap {r q : Smd} (h : Agree r q) (hv : q.mapValid = true) :
    r.sizeX = q.sizeX ∧ r.sizeY = q.sizeY ∧ r.manX = q.manX ∧ r.manY = q.manY ∧
    r.grid.take (r.sizeX.toNat * r.sizeY.toNat) = q.grid.take (q.sizeX.toNat * q.sizeY.toNat) := by
  have hr : r.mapValid = true := (h.field Smd.mapValid fun _ => rfl).trans hv
  have hall := h.1
  simp only [valued, hr, hv, if_true, Smd.mk.injEq] at hall
  obtain ⟨-, -, -, -, -, -, -, hx, hy, hmx, hmy, -, -, hgrid, -⟩ := hall
  exact ⟨hx, hy, hmx, hmy, hgrid⟩

/-- The cursor may be set, with equal bytes latched where a bit of them is left (R20). -/
theorem Agree.setCursor {r q : Smd} (h : Agree r q) {p p' : Offset} (hp : p = p') (b : Count) {c d : Byte}
    (hc : b ≠ 0#4 → c = d) :
    Agree { r with bytePtr := p, bitsLeft := b, curByte := c } { q with bytePtr := p', bitsLeft := b, curByte := d } := by
  refine ⟨?_, h.2⟩
  change { valued r with bytePtr := p, bitsLeft := b, curByte := if b = 0#4 then 0#8 else c } =
    { valued q with bytePtr := p', bitsLeft := b, curByte := if b = 0#4 then 0#8 else d }
  have hcd : (if b = 0#4 then 0#8 else c) = if b = 0#4 then 0#8 else d := by
    split
    · rfl
    · exact hc ‹_›
  rw [h.1, hcd, hp]

theorem Agree.respond {r q : Smd} (h : Agree r q) (d : Data) : Agree (respond d r) (respond d q) :=
  h.update (Machine.respond d) (Machine.respond d) (fun _ => rfl) fun _ => rfl

theorem Agree.raiseError {r q : Smd} (h : Agree r q) (c : Issuer) (k : ErrKind) (a : Nat) :
    Agree (raiseError c k a r) (raiseError c k a q) :=
  h.update (Machine.raiseError c k a) (Machine.raiseError c k a) (fun _ => by cases c <;> rfl) fun _ => by cases c <;> rfl

theorem Agree.refuse {r q : Smd} (h : Agree r q) (why : Reason) : Agree (refuse why r) (refuse why q) :=
  h.update (Machine.refuse why) (Machine.refuse why) (fun _ => rfl) fun _ => rfl

theorem Agree.setToken {r q : Smd} (h : Agree r q) (t : Token) : Agree { r with token := t } { q with token := t } :=
  h.update (fun p => { p with token := t }) (fun p => { p with token := t }) (fun _ => rfl) fun _ => rfl

theorem Agree.setRun {r q : Smd} (h : Agree r q) (n : Count) (c : Option Cell) :
    Agree { r with pending := n, cached := c } { q with pending := n, cached := c } :=
  h.update (fun p => { p with pending := n, cached := c }) (fun p => { p with pending := n, cached := c }) (fun _ => rfl)
    fun _ => rfl

theorem Agree.startCore {r q : Smd} (h : Agree r q) (a : Offset) : Agree (startCore a r) (startCore a q) :=
  h.update (Machine.startCore a) (fun p => { Machine.startCore a p with curByte := 0#8 }) (fun _ => rfl) fun _ => rfl

end Sys2Proof.Safety

namespace Sys2Proof.Machine

open Sys2Proof.Safety

/-! ### Stretches of pseudocode that end alike -/

/-- Both stretches end well with one value and registers related by `Q`, or raise one error with registers that agree,
or stop alike. -/
inductive Res.Alike {α : Type} (Q : Smd → Smd → Prop) : Res α → Res α → Prop
  | ok {a : α} {r q : Smd} (h : Q r q) : Alike Q (.ok a r) (.ok a q)
  | raised {k : ErrKind} {o : Nat} {r q : Smd} (h : Agree r q) : Alike Q (.raised k o r) (.raised k o q)
  | fault {f : Fault} : Alike Q (.fault f) (.fault f)

theorem Res.Alike.bind {α β : Type} {Q Q' : Smd → Smd → Prop} {x y : Res α} {f g : α → Smd → Res β}
    (h : x.Alike Q y) (hf : ∀ a r q, Q r q → (f a r).Alike Q' (g a q)) : (x.bind f).Alike Q' (y.bind g) := by
  cases h with
  | ok h => exact hf _ _ _ h
  | raised h => exact .raised h
  | fault => exact .fault

theorem Res.Alike.map {α β : Type} {Q : Smd → Smd → Prop} {x y : Res α} (h : x.Alike Q y) (f : α → β) :
    (x.map f).Alike Q (y.map f) := Res.Alike.bind h fun _ _ _ hQ => .ok hQ

/-- Related ends may be related by what each stretch leaves, too. -/
theorem Res.Alike.with_leaves {α : Type} {Q Q' : Smd → Smd → Prop} {P P' : Smd → Prop} {x y : Res α} (h : x.Alike Q y)
    (hx : x.Leaves P) (hy : y.Leaves P') (hQ : ∀ r q, Q r q → P r → P' q → Q' r q) : x.Alike Q' y := by
  cases h with
  | ok h => exact .ok (hQ _ _ h hx hy)
  | raised h => exact .raised h
  | fault => exact .fault

end Sys2Proof.Machine

namespace Sys2Proof.Safety

open Sys2Proof.Machine

/-- A byte of the buffer is read alike, and no register written (R42). -/
theorem memRead_bind_alike {β : Type} {Q : Smd → Smd → Prop} {e : Env} {a : Nat} {r q : Smd} {f g : Byte → Smd → Res β}
    (h : Agree r q) (hf : ∀ b, (f b r).Alike Q (g b q)) : ((memRead e a r).bind f).Alike Q ((memRead e a q).bind g) := by
  unfold memRead
  split
  · exact .raised h
  · exact hf _

theorem resolveOffset_alike {Q : Smd → Smd → Prop} {e : Env} {i : MapIndex} {r q : Smd} (h : Agree r q) (hQ : Q r q) :
    (resolveOffset e i r).Alike Q (resolveOffset e i q) := by
  unfold resolveOffset memRead16LE
  split
  · exact .raised h
  · refine Res.Alike.bind (Q := Q) ?_ fun _ _ _ h => .ok h
    exact memRead_bind_alike h fun _ => memRead_bind_alike h fun _ => .ok hQ

/-! ### The core -/

theorem fetchBit_alike {e : Env} {r q : Smd} (h : Agree r q) : (fetchBit e r).Alike Agree (fetchBit e q) := by
  have hb : r.bitsLeft = q.bitsLeft := h.field _ fun _ => rfl
  have hp : r.bytePtr = q.bytePtr := h.field _ fun _ => rfl
  have hlatch : (latch e r).Alike (fun r q => Agree r q ∧ q.bitsLeft ≠ 0#4) (latch e q) := by
    unfold latch
    rw [hb, hp]
    split
    · have h8 : 8#4 ≠ 0#4 := by decide
      exact memRead_bind_alike h fun _ => .ok ⟨h.setCursor (by rw [hp]) 8#4 fun _ => rfl, h8⟩
    · exact .ok ⟨h, ‹_›⟩
  refine hlatch.bind fun _ r q ⟨h, h0⟩ => ?_
  have hb : r.bitsLeft = q.bitsLeft := h.field _ fun _ => rfl
  have hp : r.bytePtr = q.bytePtr := h.field _ fun _ => rfl
  have hc := h.curByte h0
  unfold deliver
  rw [hb, hc]
  split
  · exact .ok (h.setCursor hp (q.bitsLeft - 1#4) fun _ => rfl)
  · exact .fault

theorem skipBits_alike {e : Env} (k : Nat) {r q : Smd} (h : Agree r q) :
    (skipBits e k r).Alike Agree (skipBits e k q) := by
  induction k generalizing r q with
  | zero => exact .ok h
  | succ k ih => exact (fetchBit_alike h).bind fun _ _ _ h => ih h

theorem readCounter_alike {e : Env} {r q : Smd} (h : Agree r q) : (readCounter e r).Alike Agree (readCounter e q) := by
  unfold readCounter
  refine (fetchBit_alike h).bind fun b _ _ h => ?_
  split
  · exact .ok h
  · exact (fetchBit_alike h).bind fun _ _ _ h => (fetchBit_alike h).bind fun _ _ _ h =>
      (fetchBit_alike h).bind fun _ _ _ h => .ok h

theorem readCellCode_alike {e : Env} {r q : Smd} (h : Agree r q) :
    (readCellCode e r).Alike Agree (readCellCode e q) := by
  unfold readCellCode
  refine (fetchBit_alike h).bind fun a _ _ h => (fetchBit_alike h).bind fun b _ _ h => ?_
  match a, b with
  | false, false | false, true | true, false => exact .ok h
  | true, true =>
    refine (fetchBit_alike h).bind fun c _ _ h => ?_
    cases c <;> exact .ok h

theorem continueRun_alike {r q : Smd} (h : Agree r q) : (continueRun r).Alike Agree (continueRun q) := by
  have hc : r.cached = q.cached := h.field _ fun _ => rfl
  have hp : r.pending = q.pending := h.field _ fun _ => rfl
  unfold continueRun
  rw [hc, hp]
  split
  · split
    · exact .ok (hc ▸ h.setRun (q.pending - 1#4) q.cached)
    · exact .fault
  · exact .fault

theorem cellStep_alike {e : Env} {r q : Smd} (h : Agree r q) : (cellStep e r).Alike Agree (cellStep e q) := by
  have hp : r.pending = q.pending := h.field _ fun _ => rfl
  unfold cellStep
  rw [hp]
  split
  · exact continueRun_alike h
  · exact (readCounter_alike h).bind fun _ _ _ h => (readCellCode_alike h).bind fun _ _ _ h => .ok (h.setRun _ _)

theorem readByteBody_alike {e : Env} {r q : Smd} (h : Agree r q) :
    (readByteBody e r).Alike Agree (readByteBody e q) := by
  have hp : r.bytePtr = q.bytePtr := h.field _ fun _ => rfl
  unfold readByteBody
  rw [hp]
  exact memRead_bind_alike h fun _ => .ok (h.setCursor (by rw [hp]) 0#4 fun h0 => absurd rfl h0)

end Sys2Proof.Safety
end

section
/-! DECODE_MAP and the ends of the commands, run alike from SMDs that agree. -/

namespace Sys2Proof.Safety

open Sys2Proof.Machine

/-! ### DECODE_MAP, stretch by stretch -/

/-- While no Map is sealed the Map registers hold no value, whatever is written there (R28). -/
theorem valued_of_mapOnly {r q : Smd} (h : MapOnly r q) (hv : r.mapValid = false) : valued q = valued r := by
  rw [show q = _ from h]
  simp [valued, hv]

theorem Agree.of_mapOnly {r q r' q' : Smd} (h : Agree r q) (hv : r.mapValid = false) (hr : MapOnly r r')
    (hq : MapOnly q q') (hg : r'.grid.length = q'.grid.length) : Agree r' q' := by
  have hv' : q.mapValid = false := (h.field Smd.mapValid fun _ => rfl).symm.trans hv
  exact ⟨by rw [valued_of_mapOnly hr hv, valued_of_mapOnly hq hv', h.1], hg⟩

theorem Agree.startDecode {r q : Smd} (h : Agree r q) (i : MapIndex) : Agree (startDecode i r) (startDecode i q) :=
  h.update (Machine.startDecode i)
    (fun p => Machine.startDecode i { p with sizeX := 0#8, sizeY := 0#8, manX := 0#8, manY := 0#8, grid := [] })
    (fun _ => rfl) fun _ => rfl

/-- Inside two runs of DECODE_MAP for a map of these sizes, whose first `m` cells are in both grids. -/
structure Filled (x y : Byte) (m : Nat) (r q : Smd) : Prop where
  agree : Agree r q
  unsealed : r.mapValid = false
  left : r.sizeX = x ∧ r.sizeY = y
  right : q.sizeX = x ∧ q.sizeY = y
  cells : r.grid.take m = q.grid.take m

/-- The loop counters may be written. -/
theorem Filled.of_mapOnly {x y : Byte} {m : Nat} {r q r' q' : Smd} (h : Filled x y m r q) (hr : MapOnly r r')
    (hq : MapOnly q q') (hr' : r'.sizeX = r.sizeX ∧ r'.sizeY = r.sizeY ∧ r'.grid = r.grid)
    (hq' : q'.sizeX = q.sizeX ∧ q'.sizeY = q.sizeY ∧ q'.grid = q.grid) : Filled x y m r' q' := by
  obtain ⟨hrx, hry, hrg⟩ := hr'
  obtain ⟨hqx, hqy, hqg⟩ := hq'
  refine ⟨h.agree.of_mapOnly h.unsealed hr hq (by rw [hrg, hqg, h.agree.2]), ?_, ?_, ?_, ?_⟩
  · rw [show r' = _ from hr]; exact h.unsealed
  · rw [hrx, hry]; exact h.left
  · rw [hqx, hqy]; exact h.right
  · rw [hrg, hqg]; exact h.cells

/-- Work on the core keeps the grids as they are. -/
theorem Filled.of_coreOnly {x y : Byte} {m : Nat} {r q r' q' : Smd} (h : Filled x y m r q) (hr : CoreOnly r r')
    (hq : CoreOnly q q') (ha : Agree r' q') : Filled x y m r' q' := by
  refine ⟨ha, (congrArg Smd.mapValid hr).trans h.unsealed, ?_, ?_, ?_⟩
  · rw [show r' = _ from hr]; exact h.left
  · rw [show q' = _ from hq]; exact h.right
  · rw [show r' = _ from hr, show q' = _ from hq]; exact h.cells

theorem readProlog_alike {e : Env} {base : Nat} {r q : Smd} (h : Agree r q) (hv : r.mapValid = false) :
    (readProlog e base r).Alike (fun r q => ∃ x y, Filled x y 0 r q) (readProlog e base q) := by
  unfold readProlog
  refine memRead_bind_alike h fun x => ?_
  have hx : Agree { r with sizeX := x } { q with sizeX := x } := h.of_mapOnly hv rfl rfl h.2
  refine memRead_bind_alike hx fun y => ?_
  have hy : Agree { r with sizeX := x, sizeY := y } { q with sizeX := x, sizeY := y } := h.of_mapOnly hv rfl rfl h.2
  by_cases hdim : e.cfg.maxX ≤ x.toNat ∨ e.cfg.maxY ≤ y.toNat
  · simp only [if_pos hdim]
    exact .raised hy
  · simp only [if_neg hdim]
    exact .ok ⟨x, y, hy, hv, ⟨rfl, rfl⟩, ⟨rfl, rfl⟩, rfl⟩

theorem gridWrite_alike {x y : Byte} {m : Nat} {r q : Smd} (h : Filled x y m r q) (c : Cell) :
    (gridWrite m c r).Alike (Filled x y (m + 1)) (gridWrite m c q) := by
  have hlen : r.grid.length = q.grid.length := h.agree.2
  unfold gridWrite
  rw [hlen]
  split
  · rename_i hm
    have hset : (r.grid.set m c).length = (q.grid.set m c).length := by simpa using hlen
    refine .ok ⟨h.agree.of_mapOnly h.unsealed rfl rfl hset, h.unsealed, h.left, h.right, ?_⟩
    show (r.grid.set m c).take (m + 1) = (q.grid.set m c).take (m + 1)
    rw [List.take_add_one, List.take_add_one, List.take_set, List.take_set, h.cells,
      List.getElem?_set_self (hlen ▸ hm), List.getElem?_set_self hm]
  · exact .fault

theorem fillColumns_alike {e : Env} {x y : Byte} {row n col : Nat} {r q : Smd}
    (h : Filled x y (row * x.toNat + col) r q) :
    (fillColumns e row n col r).Alike (Filled x y (row * x.toNat + col + n)) (fillColumns e row n col q) := by
  induction n generalizing col r q with
  | zero => exact .ok h
  | succ n ih =>
    have hcol : Filled x y _ { r with col := byteOf col } { q with col := byteOf col } :=
      h.of_mapOnly rfl rfl ⟨rfl, rfl, rfl⟩ ⟨rfl, rfl, rfl⟩
    have hcell := (cellStep_alike hcol.agree).with_leaves (cellStep_coreOnly e _) (cellStep_coreOnly e _)
      fun _ _ ha hr hq => hcol.of_coreOnly hr hq ha
    refine hcell.bind fun c r q h => ?_
    rw [h.left.1, h.right.1]
    refine (gridWrite_alike h c).bind fun _ r q h => ?_
    rw [show row * x.toNat + col + (n + 1) = row * x.toNat + (col + 1) + n by omega]
    exact ih h

theorem fillRows_alike {e : Env} {x y : Byte} {n row : Nat} {r q : Smd} (h : Filled x y (row * x.toNat) r q) :
    (fillRows e n row r).Alike (Filled x y ((row + n) * x.toNat)) (fillRows e n row q) := by
  induction n generalizing row r q with
  | zero => exact .ok h
  | succ n ih =>
    have hrow : Filled x y (row * x.toNat + 0) { r with row := byteOf row } { q with row := byteOf row } :=
      h.of_mapOnly rfl rfl ⟨rfl, rfl, rfl⟩ ⟨rfl, rfl, rfl⟩
    unfold fillRows
    rw [show r.sizeX.toNat = x.toNat by rw [h.left.1], show q.sizeX.toNat = x.toNat by rw [h.right.1]]
    refine (fillColumns_alike hrow).bind fun _ r q h => ?_
    rw [show row + (n + 1) = row + 1 + n by omega]
    exact ih (by rwa [Nat.add_zero, ← Nat.succ_mul] at h)

theorem Filled.startCore {x y : Byte} {m : Nat} {r q : Smd} (h : Filled x y m r q) (a : Offset) :
    Filled x y m (startCore a r) (startCore a q) :=
  ⟨h.agree.startCore a, h.unsealed, h.left, h.right, h.cells⟩

theorem readEpilog_alike {e : Env} {x y : Byte} {m : Nat} {r q : Smd} (h : Filled x y m r q) :
    (readEpilog e r).Alike (fun r q => Filled x y m r q ∧ r.manX = q.manX ∧ r.manY = q.manY) (readEpilog e q) := by
  have hp : r.bytePtr = q.bytePtr := h.agree.field _ fun _ => rfl
  unfold readEpilog
  rw [hp]
  refine memRead_bind_alike h.agree fun mx => ?_
  have hx : Filled x y m { r with manX := mx } { q with manX := mx } :=
    h.of_mapOnly rfl rfl ⟨rfl, rfl, rfl⟩ ⟨rfl, rfl, rfl⟩
  refine memRead_bind_alike hx.agree fun my => ?_
  have hy : Filled x y m { r with manX := mx, manY := my } { q with manX := mx, manY := my } :=
    h.of_mapOnly rfl rfl ⟨rfl, rfl, rfl⟩ ⟨rfl, rfl, rfl⟩
  have hset := hy.agree.setCursor (c := r.curByte) (d := q.curByte) (p := offsetOf (q.bytePtr.toNat + 2)) rfl 0#4
    fun h0 => absurd rfl h0
  exact .ok ⟨hy.of_coreOnly rfl rfl hset, rfl, rfl⟩

theorem gridRead_alike {x y : Byte} {m k : Nat} {r q : Smd} (h : Filled x y m r q) (hm : m = x.toNat * y.toNat) :
    (gridRead k r).Alike (fun r' q' => r' = r ∧ q' = q) (gridRead k q) := by
  unfold gridRead
  rw [h.left.1, h.left.2, h.right.1, h.right.2]
  split
  · rename_i hk
    have hget : r.grid[k]? = q.grid[k]? := by
      rw [← List.getElem?_take_of_lt (hm ▸ hk), h.cells, List.getElem?_take_of_lt (hm ▸ hk)]
    rw [hget]
    split
    · exact .ok ⟨rfl, rfl⟩
    · exact .fault
  · exact .fault

/-- The seal gives the Map registers a value: by then they are equal. -/
theorem Filled.sealMap {x y : Byte} {m : Nat} {r q : Smd} (h : Filled x y m r q) (hm : m = x.toNat * y.toNat)
    (hx : r.manX = q.manX) (hy : r.manY = q.manY) : Agree { r with mapValid := true } { q with mapValid := true } := by
  refine ⟨?_, h.agree.2⟩
  change { valued r with
      mapValid := true, sizeX := r.sizeX, sizeY := r.sizeY, manX := r.manX, manY := r.manY,
      grid := r.grid.take (r.sizeX.toNat * r.sizeY.toNat) } =
    { valued q with
      mapValid := true, sizeX := q.sizeX, sizeY := q.sizeY, manX := q.manX, manY := q.manY,
      grid := q.grid.take (q.sizeX.toNat * q.sizeY.toNat) }
  rw [h.agree.1, h.left.1, h.left.2, h.right.1, h.right.2, hx, hy, ← hm, h.cells]

theorem placePlayer_alike {e : Env} {base : Nat} {x y : Byte} {m : Nat} {r q : Smd} (h : Filled x y m r q)
    (hm : m = x.toNat * y.toNat) (hx : r.manX = q.manX) (hy : r.manY = q.manY) :
    (placePlayer e base r).Alike Agree (placePlayer e base q) := by
  unfold placePlayer
  rw [hx, hy, h.left.1, h.left.2, h.right.1, h.right.2]
  split
  · exact .raised h.agree
  · refine (gridRead_alike h hm).bind ?_
    rintro c _ _ ⟨rfl, rfl⟩
    split
    · exact .ok (h.sealMap hm hx hy)
    · exact .raised h.agree

theorem decodeBody_alike {e : Env} {i : MapIndex} {r q : Smd} (h : Agree r q) (hv : r.mapValid = false) :
    (decodeBody e i r).Alike Agree (decodeBody e i q) := by
  unfold decodeBody
  refine (resolveOffset_alike (Q := fun r q => Agree r q ∧ r.mapValid = false) h ⟨h, hv⟩).bind fun base _ _ h => ?_
  refine (readProlog_alike h.1 h.2).bind fun _ r q ⟨x, y, h⟩ => ?_
  rw [h.left.2, h.right.2]
  have hstart : Filled x y (0 * x.toNat) _ _ := (Nat.zero_mul x.toNat).symm ▸ h.startCore (offsetOf (base + 2))
  refine (fillRows_alike hstart).bind fun _ _ _ h => ?_
  refine (readEpilog_alike h).bind fun epilog _ _ ⟨h, hx, hy⟩ => ?_
  refine (placePlayer_alike h (by rw [Nat.zero_add, Nat.mul_comm]) hx hy).bind fun _ _ _ h => ?_
  exact .ok (h.update endDecode endDecode (fun _ => rfl) fun _ => rfl)

/-! ### The ends of the commands -/

/-- The outcome `o'`, from the state `s` with another acting SMD, is as the outcome `o` from `s`. -/
inductive AnswersAlike (s : State) : Host.Outcome State Fault Refusal → Host.Outcome State Fault Refusal → Prop
  | next {r q : Smd} (h : Agree r q) : AnswersAlike s (.next (s.put r)) (.next (s.put q))
  | fault {f : Fault} : AnswersAlike s (.fault f) (.fault f)

section
variable {s : State} {r : Smd}

theorem finish_alike (c : Issuer) {x y : Res Data} (h : x.Alike Agree y) :
    AnswersAlike s (finish c (s.put r) x) (finish c s y) := by
  cases h with
  | ok h => exact .next (h.respond _)
  | raised h => exact .next (h.raiseError c _ _)
  | fault => exact .fault

theorem finishSymbol_alike {x y : Res Unit} (h : x.Alike Agree y) :
    AnswersAlike s (finishSymbol (s.put r) x) (finishSymbol s y) := by
  cases h with
  | ok h => exact .next h
  | raised h => exact .next ((h.raiseError .primitive _ _).setToken .idle)
  | fault => exact .fault

variable (h : Agree r s.smd)
include h

theorem gated_alike {x y : Res Data} (hxy : x.Alike Agree y) : AnswersAlike s (gated (s.put r) x) (gated s y) := by
  have hready : (s.put r).smd.ready = s.smd.ready := h.field _ fun _ => rfl
  have herr : (s.put r).smd.err = s.smd.err := h.field _ fun _ => rfl
  unfold gated
  rw [hready, herr]
  split
  · exact .next (h.refuse _)
  · split
    · exact .next (h.update repeatError repeatError (fun _ => rfl) fun _ => rfl)
    · exact finish_alike .primitive hxy

theorem execReset_alike (arg : BitVec 32) : AnswersAlike s (execReset arg (s.put r)) (execReset arg s) := by
  have hmark : (s.put r).smd.refusalMark = s.smd.refusalMark := h.field _ fun _ => rfl
  unfold execReset
  rw [hmark]
  exact .next (.refl _)

theorem execInit_alike (start : BitVec 32) : AnswersAlike s (execInit start (s.put r)) (execInit start s) :=
  .next (((h.update clearStatus clearStatus (fun _ => rfl) fun _ => rfl).startCore start).respond .none)

theorem execReadStatus_alike (arg : BitVec 32) : AnswersAlike s (execReadStatus arg (s.put r)) (execReadStatus arg s) := by
  have hwords : statusWords (s.put r).smd = statusWords s.smd := h.field statusWords fun _ => rfl
  unfold execReadStatus
  rw [hwords]
  exact .next (h.respond _)

theorem execReadMap_alike (arg : BitVec 32) : AnswersAlike s (execReadMap arg (s.put r)) (execReadMap arg s) := by
  have hvalid : (s.put r).smd.mapValid = s.smd.mapValid := h.field _ fun _ => rfl
  unfold execReadMap
  rw [hvalid]
  split
  · exact .next (h.refuse _)
  · obtain ⟨hx, hy, hmx, hmy, hgrid⟩ := h.sealedMap (by simpa using ‹¬ s.smd.mapValid = false›)
    have hcells : (gridCells r).Alike Agree (gridCells s.smd) := by
      unfold gridCells
      rw [hgrid, hx, hy, h.2]
      split
      · exact .ok h
      · exact .fault
    rw [put_smd, hx, hy, hmx, hmy]
    exact finish_alike .primitive (hcells.map _)

theorem execResolve_alike (arg : BitVec 32) : AnswersAlike s (execResolve arg (s.put r)) (execResolve arg s) := by
  unfold execResolve
  split
  · exact .next (h.refuse _)
  · exact finish_alike _ ((resolveOffset_alike h h).map _)

theorem execDecodeMap_alike (arg : BitVec 32) : AnswersAlike s (execDecodeMap arg (s.put r)) (execDecodeMap arg s) := by
  unfold execDecodeMap
  split
  · exact .next (h.refuse _)
  · exact finish_alike .decodeMap (decodeBody_alike (h.startDecode _) rfl)

theorem takeCounter_alike (k n : Nat) : AnswersAlike s (takeCounter k n (s.put r)) (takeCounter k n s) :=
  finishSymbol_alike ((skipBits_alike k h).bind fun _ _ _ h => .ok (h.setToken _))

theorem takeCellCode_alike (k : Nat) (c : Cell) : AnswersAlike s (takeCellCode k c (s.put r)) (takeCellCode k c s) := by
  have htok : (s.put r).smd.token = s.smd.token := h.field _ fun _ => rfl
  unfold takeCellCode
  rw [htok]
  split
  · exact finishSymbol_alike ((skipBits_alike k h).bind fun _ _ _ h => .ok (((h.setRun _ _).setToken .idle).respond _))
  · exact .fault
  · exact .fault

/-- Every instruction answers alike for acting SMDs that agree. -/
theorem exec_alike (i : Instr) : AnswersAlike s (exec i (s.put r)) (exec i s) := by
  cases i with
  | reset arg => exact execReset_alike h arg
  | init start => exact execInit_alike h start
  | nextBit => exact gated_alike h ((fetchBit_alike h).map _)
  | nextCell => exact gated_alike h ((cellStep_alike h).map _)
  | readByte => exact gated_alike h ((readByteBody_alike h).map _)
  | resolve arg => exact execResolve_alike h arg
  | decodeMap arg => exact execDecodeMap_alike h arg
  | readStatus arg => exact execReadStatus_alike h arg
  | readMap arg => exact execReadMap_alike h arg
  | reserved9 | reservedA | reservedB | reservedC | reservedD | reservedE | reservedF => exact .next (h.refuse _)
  | run1 | run2 | run3 | run4 | run5 | run6 | run7 | run8 | run9 => exact takeCounter_alike h _ _
  | cellEmpty | cellWall | cellBarrel | cellBarrelSlot | cellBarrelPlaced => exact takeCellCode_alike h _ _

end

end Sys2Proof.Safety

open Sys2Proof Sys2Proof.Machine Sys2Proof.Safety

/-- Settles O51: every stretch of pseudocode runs alike from SMDs that agree, and so do the commands' ends. -/
theorem registersWithoutValueAreNotRead : Obligations.RegistersWithoutValueAreNotRead := by
  intro i s r hv hg
  have h := exec_alike (s := s) ⟨hv, hg⟩ i
  generalize exec i s = o, exec i (s.put r) = o' at h ⊢
  cases h with
  | next h =>
    refine ⟨fun t ht => ?_, nofun⟩
    obtain rfl := Host.Outcome.next.inj ht
    exact ⟨_, rfl, h⟩
  | fault => exact ⟨fun _ ht => (nomatch ht), fun _ hf => hf⟩
end

section
/-! Commands to different SMDs: a command reads and writes the SMD in the focus alone, whatever stands around it, and
leaves it between commands. So two steps for two SMDs write two entries of the list of SMDs, in either order. -/

namespace Sys2Proof.Safety

open Sys2Proof.Machine

/-! ### DECODE_MAP leaves no token being read, in states outside the machine's invariant too -/

section
variable {e : Env} {r : Smd} (h : r.token = .idle)
include h

theorem readProlog_idle (base : Nat) : (readProlog e base r).Leaves (·.token = .idle) := by
  unfold readProlog
  refine (memRead_leaves h).bind (fun _ h => h) fun x p hp => ?_
  refine (memRead_leaves (r := { p with sizeX := x }) hp).bind (fun _ h => h) fun y q hq => ?_
  dsimp only
  split <;> exact hq

theorem gridWrite_idle (k : Nat) (c : Cell) : (gridWrite k c r).Leaves (·.token = .idle) := by
  unfold gridWrite
  split
  · exact h
  · trivial

theorem cellStep_idle : (cellStep e r).Leaves (·.token = .idle) := by
  have hcore := cellStep_coreOnly e r
  cases hx : cellStep e r with
  | ok => exact (congrArg Smd.token (hcore.of_ok hx)).trans h
  | raised => exact (congrArg Smd.token (hcore.of_raised hx)).trans h
  | fault => trivial

theorem fillColumns_idle (row n col : Nat) : (fillColumns e row n col r).Leaves (·.token = .idle) := by
  induction n generalizing col r with
  | zero => exact h
  | succ n ih =>
    refine (cellStep_idle (r := { r with col := byteOf col }) h).bind (fun _ h => h) fun c _ hp => ?_
    exact (gridWrite_idle hp _ c).bind (fun _ h => h) fun _ _ hq => ih hq (col + 1)

theorem fillRows_idle (n row : Nat) : (fillRows e n row r).Leaves (·.token = .idle) := by
  induction n generalizing row r with
  | zero => exact h
  | succ n ih =>
    refine (fillColumns_idle (r := { r with row := byteOf row }) h row _ 0).bind (fun _ h => h) fun _ _ hp => ?_
    exact ih hp (row + 1)

theorem readEpilog_idle : (readEpilog e r).Leaves (·.token = .idle) := by
  unfold readEpilog
  refine (memRead_leaves h).bind (fun _ h => h) fun x p hp => ?_
  exact (memRead_leaves (r := { p with manX := x }) hp).bind (fun _ h => h) fun _ _ hq => hq

theorem gridRead_idle (k : Nat) : (gridRead k r).Leaves (·.token = .idle) := by
  unfold gridRead
  split
  · split
    · exact h
    · trivial
  · trivial

theorem placePlayer_idle (base : Nat) : (placePlayer e base r).Leaves (·.token = .idle) := by
  unfold placePlayer
  split
  · exact h
  · refine (gridRead_idle h _).bind (fun _ h => h) fun c _ hq => ?_
    split <;> exact hq

theorem decodeBody_idle (i : MapIndex) : (decodeBody e i r).Leaves (·.token = .idle) := by
  unfold decodeBody
  refine (resolveOffset_leaves h).bind (fun _ h => h) fun base _ hp => ?_
  refine (readProlog_idle hp base).bind (fun _ h => h) fun _ _ _ => ?_
  refine (fillRows_idle rfl _ 0).bind (fun _ h => h) fun _ _ hp => ?_
  refine (readEpilog_idle hp).bind (fun _ h => h) fun epilog _ hp => ?_
  exact (placePlayer_idle hp epilog).bind (fun _ h => h) fun _ _ hp => hp

end

/-- A command leaves the SMD it acts on between commands, whatever its registers hold. -/
theorem idle_of_command_effect {e : Env} {i : Instr} {w : BitVec 36} (hi : encode i = .command w) {r q : Smd}
    (htok : r.token = .idle) (h : Effect e r i q) : q.token = .idle := by
  cases h with
  | reset | init | symbolCut => rfl
  | decodeMap h =>
    exact h.of_leaves (P' := (·.token = .idle)) (decodeBody_idle rfl _) (fun _ _ h => h) fun _ _ _ h => h
  | refused | answered => exact htok
  | primitive hx h =>
    exact h.of_leaves (P' := (·.token = .idle)) (primitiveBody_coreOnly hx)
      (fun _ _ h => (congrArg Smd.token h).trans htok) fun _ _ _ h => (congrArg Smd.token h).trans htok
  | counter hc | cellCode hc => cases hi.symm.trans hc

end Sys2Proof.Safety

namespace Sys2Proof.Machine

/-! ### An instruction acts alike whatever stands around the SMD in the focus -/

/-- The acting SMD and the configuration of `s`, among the other SMDs and the issued commands of `w`. -/
def State.within (s w : State) : State := { s with host := w.host, before := w.before, after := w.after }

/-- An outcome whose next state is set among the other SMDs and the issued commands of `w`. -/
def outcomeWithin (w : State) : Host.Outcome State Fault Refusal → Host.Outcome State Fault Refusal
  | .next t => .next (t.within w)
  | .fault f => .fault f
  | .refused why => .refused why

@[simp] theorem within_env (s w : State) : (s.within w).env = s.env := rfl
@[simp] theorem within_smd (s w : State) : (s.within w).smd = s.smd := rfl

theorem within_eq_self {s w : State} (henv : w.env = s.env) (hsmd : w.smd = s.smd) : s.within w = w := by
  unfold State.within
  rw [← henv, ← hsmd]

section
variable (s w : State)

theorem finish_within (c : Issuer) (x : Res Data) : finish c (s.within w) x = outcomeWithin w (finish c s x) := by
  cases x <;> rfl

theorem finishSymbol_within (x : Res Unit) : finishSymbol (s.within w) x = outcomeWithin w (finishSymbol s x) := by
  cases x <;> rfl

theorem gated_within (x : Res Data) : gated (s.within w) x = outcomeWithin w (gated s x) := by
  unfold gated
  rw [within_smd]
  split
  · rfl
  · split
    · rfl
    · exact finish_within s w .primitive x

theorem execReadMap_within (arg : BitVec 32) : execReadMap arg (s.within w) = outcomeWithin w (execReadMap arg s) := by
  unfold execReadMap
  rw [within_smd]
  split
  · rfl
  · exact finish_within s w .primitive _

theorem execResolve_within (arg : BitVec 32) : execResolve arg (s.within w) = outcomeWithin w (execResolve arg s) := by
  unfold execResolve
  split
  · rfl
  · exact finish_within s w _ _

theorem execDecodeMap_within (arg : BitVec 32) :
    execDecodeMap arg (s.within w) = outcomeWithin w (execDecodeMap arg s) := by
  unfold execDecodeMap
  split
  · rfl
  · exact finish_within s w .decodeMap _

theorem takeCellCode_within (k : Nat) (c : Cell) :
    takeCellCode k c (s.within w) = outcomeWithin w (takeCellCode k c s) := by
  unfold takeCellCode
  rw [within_smd]
  split
  · exact finishSymbol_within s w _
  · rfl
  · rfl

/-- No instruction reads or writes the other SMDs or the issued commands (R39). -/
theorem exec_within (i : Instr) : exec i (s.within w) = outcomeWithin w (exec i s) := by
  cases i with
  | reset | init | readStatus => rfl
  | reserved9 | reservedA | reservedB | reservedC | reservedD | reservedE | reservedF => rfl
  | nextBit | nextCell | readByte => exact gated_within s w _
  | resolve arg => exact execResolve_within s w arg
  | decodeMap arg => exact execDecodeMap_within s w arg
  | readMap arg => exact execReadMap_within s w arg
  | run1 | run2 | run3 | run4 | run5 | run6 | run7 | run8 | run9 => exact finishSymbol_within s w _
  | cellEmpty | cellWall | cellBarrel | cellBarrelSlot | cellBarrelPlaced => exact takeCellCode_within s w _ _

end

/-- The command takes an SMD from the registers `r` to `q`, whatever stands around it. -/
def Issued.Takes (c : Issued) (e : Env) (r q : Smd) : Prop :=
  ∀ s : State, s.env = e → s.smd = r → exec (decodeCommand c.cmd c.arg) s = .next (s.put q)

theorem takes_of_exec {c : Issued} {s t : State} (h : exec (decodeCommand c.cmd c.arg) s = .next t) :
    ∃ q, t = s.put q ∧ c.Takes s.env s.smd q := by
  obtain ⟨q, rfl, -⟩ := exec_effect h
  refine ⟨q, rfl, fun w henv hsmd => ?_⟩
  have hw := exec_within s w (decodeCommand c.cmd c.arg)
  rw [within_eq_self henv hsmd, h] at hw
  exact hw.trans (congrArg Host.Outcome.next (within_eq_self (s := s.put q) (w := w.put q) henv rfl))

theorem Issued.Takes.idle {c : Issued} {e : Env} {r q : Smd} (h : c.Takes e r q) (htok : r.token = .idle) :
    q.token = .idle := by
  obtain ⟨p, hp, hq⟩ := exec_effect (h { env := e, host := [], before := [], smd := r, after := [] } rfl rfl)
  obtain rfl : q = p := congrArg State.smd hp
  obtain ⟨w, hi⟩ := Safety.encode_decodeCommand c.cmd c.arg
  exact Safety.idle_of_command_effect hi htok hq

end Sys2Proof.Machine

open Sys2Proof Sys2Proof.Machine Sys2Proof.Safety

/-- Settles O4: the focus moves to the command's SMD, which exists. -/
theorem stepRunsIssuedCommand : Obligations.StepRunsIssuedCommand := by
  intro s c rest htok hhost hlt
  cases hu : s.focus c.smdNo with
  | none => exact absurd (focus_eq_none.mp hu) (Nat.not_le.mpr hlt)
  | some u =>
    obtain ⟨hall, hlen, -, henv, -⟩ := focus_some hu
    refine ⟨{ u with host := rest }, hall, hlen, henv, rfl, ?_⟩
    simp only [step, htok, hhost, hu]

namespace Sys2Proof.Safety

/-! ### A step between commands, as a change of the list of SMDs -/

/-- `t` has the SMDs and the configuration of `s`, but with `q` as number `k`, in the focus, and these commands left. -/
structure Replaced (s : State) (k : Nat) (q : Smd) (rest : List Issued) (t : State) : Prop where
  all : t.all = s.all.set k q
  smd : t.smd = q
  env : t.env = s.env
  host : t.host = rest

theorem replaced_put {s u : State} {k : Nat} {rest : List Issued} (hall : u.all = s.all) (hlen : u.before.length = k)
    (henv : u.env = s.env) (hhost : u.host = rest) (q : Smd) : Replaced s k q rest (u.put q) where
  all := by rw [put_all_eq_set, hall, hlen]
  smd := rfl
  env := henv
  host := hhost

section
variable {s : State} {c : Issued} {rest : List Issued} (htok : s.smd.token = .idle) (hhost : s.host = c :: rest)
include htok hhost

theorem takes_of_step {t : State} (h : step s = .next t) :
    ∃ r q, s.all[c.smdNo]? = some r ∧ c.Takes s.env r q ∧ Replaced s c.smdNo q rest t := by
  obtain ⟨hne, -⟩ | ⟨-, hnil, -⟩ | ⟨-, c', rest', u, hcons, hu, h⟩ := step_cases h
  · exact absurd htok hne
  · cases hhost.symm.trans hnil
  · obtain ⟨rfl, rfl⟩ := List.cons.inj (hhost.symm.trans hcons)
    obtain ⟨hall, hlen, hr, henv, -⟩ := focus_some hu
    obtain ⟨q, rfl, hq⟩ := takes_of_exec h
    exact ⟨u.smd, q, hr, henv ▸ hq, replaced_put (u := { u with host := rest }) hall hlen henv rfl q⟩

theorem step_of_takes {r q : Smd} (hr : s.all[c.smdNo]? = some r) (hq : c.Takes s.env r q) :
    ∃ t, step s = .next t ∧ Replaced s c.smdNo q rest t := by
  obtain ⟨hlt, -⟩ := List.getElem?_eq_some_iff.mp hr
  obtain ⟨u, hall, hlen, henv, hrest, hstep⟩ := stepRunsIssuedCommand s c rest htok hhost hlt
  have hsmd : u.smd = r := by
    rw [← hall, ← hlen] at hr
    simpa [State.all] using hr
  exact ⟨_, hstep.trans (hq u henv hsmd), replaced_put hall hlen henv hrest q⟩

end

end Sys2Proof.Safety

/-- Settles O10: each command finds its own SMD as it was, and takes it to the same registers in either order. -/
theorem commandsToDifferentSmdsCommute : Obligations.CommandsToDifferentSmdsCommute := by
  intro s t u c d rest hidle hne ht hu
  have htok : s.smd.token = .idle := hidle _ (smd_mem_all s)
  obtain ⟨r, q, hr, hq, ht⟩ := takes_of_step (s := { s with host := c :: d :: rest }) htok rfl ht
  have hqtok : t.smd.token = .idle := ht.smd ▸ hq.idle (hidle r (List.mem_of_getElem? hr))
  obtain ⟨r', q', hr', hq', hu⟩ := takes_of_step hqtok ht.host hu
  rw [ht.all, List.getElem?_set_ne hne] at hr'
  rw [ht.env] at hq'
  obtain ⟨t', hstep, ht'⟩ := step_of_takes (s := { s with host := d :: c :: rest }) htok rfl hr' hq'
  have hqtok' : t'.smd.token = .idle := ht'.smd ▸ hq'.idle (hidle r' (List.mem_of_getElem? hr'))
  have hr'' : t'.all[c.smdNo]? = some r := by rw [ht'.all, List.getElem?_set_ne hne.symm]; exact hr
  obtain ⟨u', hstep', hu'⟩ := step_of_takes hqtok' ht'.host hr'' (ht'.env ▸ hq)
  refine ⟨t', u', hstep, hstep', ?_, ?_, hu'.host.trans hu.host.symm⟩
  · rw [hu'.all, ht'.all, hu.all, ht.all]
    exact List.set_comm _ _ hne.symm
  · rw [hu'.env, ht'.env, hu.env, ht.env]
end

section
/-! The decoder and the encoder are inverse to each other (R59 to R63, R70): the decoder of each kind of encoding answers
an instruction exactly where the bits are that instruction's own. -/

namespace Sys2Proof

/-! ### Command words (R70) -/

@[simp] theorem wordCmd_commandWord (cmd : BitVec 4) (arg : BitVec 32) : wordCmd (commandWord cmd arg) = cmd :=
  BitVec.extractLsb'_append_eq_left

@[simp] theorem wordArg_commandWord (cmd : BitVec 4) (arg : BitVec 32) : wordArg (commandWord cmd arg) = arg :=
  BitVec.extractLsb'_append_eq_right

theorem commandWord_wordCmd_wordArg (w : BitVec 36) : commandWord (wordCmd w) (wordArg w) = w :=
  BitVec.extractLsb'_append_extractLsb'_eq_extractLsb' (by decide) |>.trans BitVec.extractLsb'_eq_self

theorem encode_decodeCommand_word (cmd : BitVec 4) (arg : BitVec 32) :
    encode (decodeCommand cmd arg) = .command (commandWord cmd arg) := by
  obtain ⟨opcode, hlt⟩ := cmd
  interval_cases opcode <;> rfl

theorem decodeCommand_of_encode {i : Instr} {w : BitVec 36} (h : encode i = .command w) :
    decodeCommand (wordCmd w) (wordArg w) = i := by
  cases i with
  | reset _ | init _ | nextBit _ | nextCell _ | readByte _ | resolve _ | decodeMap _ | readStatus _ | readMap _
  | reserved9 _ | reservedA _ | reservedB _ | reservedC _ | reservedD _ | reservedE _ | reservedF _ =>
    obtain rfl := Encoding.command.inj h
    rw [wordCmd_commandWord, wordArg_commandWord]
    rfl
  | _ => cases h

theorem decodeCommand_eq_iff {w : BitVec 36} {i : Instr} :
    decodeCommand (wordCmd w) (wordArg w) = i ↔ encode i = .command w := by
  refine ⟨?_, decodeCommand_of_encode⟩
  rintro rfl
  rw [encode_decodeCommand_word, commandWord_wordCmd_wordArg]

/-! ### Symbols (R60, R61, R63) -/

/-- A symbol decoder takes off the head of the bits exactly an instruction's code, as an encoding of this kind. -/
def TakesCode (kind : List Bool → Encoding) (dec : List Bool → Except Reject (Instr × List Bool)) : Prop :=
  ∀ (bits : List Bool) (i : Instr) (rest : List Bool),
    dec bits = .ok (i, rest) ↔ ∃ code, encode i = kind code ∧ code ++ rest = bits

theorem decodeCounter_takesCode : TakesCode .counter decodeCounter := by
  intro bits i rest
  constructor
  · intro h
    unfold decodeCounter at h
    split at h <;> cases h <;> exact ⟨_, rfl, rfl⟩
  · rintro ⟨code, hcode, rfl⟩
    cases i with
    | run1 | run2 | run3 | run4 | run5 | run6 | run7 | run8 | run9 => cases hcode; rfl
    | _ => cases hcode

theorem decodeCellCode_takesCode : TakesCode .cellCode decodeCellCode := by
  intro bits i rest
  constructor
  · intro h
    unfold decodeCellCode at h
    split at h <;> cases h <;> exact ⟨_, rfl, rfl⟩
  · rintro ⟨code, hcode, rfl⟩
    cases i with
    | cellEmpty | cellWall | cellBarrel | cellBarrelSlot | cellBarrelPlaced => cases hcode; rfl
    | _ => cases hcode

/-- The counter code is complete (R62). -/
theorem decodeCounter_complete {bits : List Bool} (h : 4 ≤ bits.length) : ∃ x, decodeCounter bits = .ok x := by
  match bits with
  | false :: _ => exact ⟨_, rfl⟩
  | true :: d3 :: d2 :: d1 :: _ => cases d3 <;> cases d2 <;> cases d1 <;> exact ⟨_, rfl⟩

/-- The cell code is complete (R62). -/
theorem decodeCellCode_complete {bits : List Bool} (h : 3 ≤ bits.length) : ∃ x, decodeCellCode bits = .ok x := by
  match bits with
  | false :: b :: _ => cases b <;> exact ⟨_, rfl⟩
  | true :: false :: _ => exact ⟨_, rfl⟩
  | true :: true :: c :: _ => cases c <;> exact ⟨_, rfl⟩

theorem exactly_eq_ok_iff {x : Except Reject (Instr × List Bool)} {i : Instr} :
    exactly x = .ok i ↔ x = .ok (i, []) := by
  match x with
  | .ok (_, []) => simp [exactly]
  | .ok (_, _ :: _) => simp [exactly]
  | .error _ => simp [exactly]

section
variable {kind : List Bool → Encoding} {dec : List Bool → Except Reject (Instr × List Bool)}

/-- The bits of one symbol and no more decode to its instruction alone. -/
theorem TakesCode.exactly_iff (hdec : TakesCode kind dec) {bits : List Bool} {i : Instr} :
    exactly (dec bits) = .ok i ↔ encode i = kind bits := by
  simp [exactly_eq_ok_iff, hdec bits i]

/-- No code begins another: what the decoder takes off is the only code at the head of the bits (R63). -/
theorem TakesCode.existsUnique (hdec : TakesCode kind dec) {bits : List Bool} (h : ∃ x, dec bits = .ok x) :
    ∃! i, ∃ code, encode i = kind code ∧ code <+: bits := by
  obtain ⟨⟨i, rest⟩, hi⟩ := h
  obtain ⟨code, hcode, happend⟩ := (hdec bits i rest).mp hi
  refine ⟨i, ⟨code, hcode, rest, happend⟩, ?_⟩
  rintro j ⟨code', hcode', rest', happend'⟩
  have hj : dec bits = .ok (j, rest') := (hdec bits j rest').mpr ⟨code', hcode', happend'⟩
  cases hi.symm.trans hj
  rfl

end

/-- An encoding decodes to an instruction where it is that instruction's, and only there. -/
theorem decode_eq_ok_iff {e : Encoding} {i : Instr} : decode e = .ok i ↔ encode i = e := by
  cases e with
  | command w => simpa only [decode, Except.ok.injEq] using decodeCommand_eq_iff
  | counter bits => exact decodeCounter_takesCode.exactly_iff
  | cellCode bits => exact decodeCellCode_takesCode.exactly_iff

end Sys2Proof

open Sys2Proof

/-- Settles O1: both directions of `decode_eq_ok_iff`. -/
theorem decodeEncodeRoundTrip : Obligations.DecodeEncodeRoundTrip :=
  ⟨fun _ => decode_eq_ok_iff.mpr rfl, fun _ _ => decode_eq_ok_iff.mp⟩

/-- Settles O2: the decoders take a code off wherever one stands, and a deterministic decoder takes one alone. -/
theorem codesCompleteAndPrefixFree : Obligations.CodesCompleteAndPrefixFree :=
  ⟨fun _ h => decodeCounter_takesCode.existsUnique (decodeCounter_complete h),
    fun _ h => decodeCellCode_takesCode.existsUnique (decodeCellCode_complete h),
    fun _ _ _ =>
      ⟨fun h => (decodeCounter_takesCode _ _ _).mpr ⟨_, h, rfl⟩,
        fun h => (decodeCellCode_takesCode _ _ _).mpr ⟨_, h, rfl⟩⟩⟩

/-- Settles O3: each of the words and codes is its instruction's encoding. -/
theorem writtenOutWordsDecode : Obligations.WrittenOutWordsDecode := by
  refine ⟨?_, ?_, ?_, ?_, ?_⟩ <;> exact decode_eq_ok_iff.mpr rfl

end

section
/-! The symbols of the bitstream as steps of their own, where their bits are inside the buffer (R91, R94). -/

namespace Sys2Proof.Safety

open Sys2Proof.Machine

variable {s : State} {k : Nat} (hcore : CoreOk s.env s.smd) (hwf : s.env.cfg.wf) (hk : k ≠ 0)
  (hp : position s.smd + k ≤ 8 * s.env.cfg.bufLen)
include hcore hwf hk hp

/-- A counter of `k` bits inside the buffer moves the cursor over them and leaves its run length (R91). -/
theorem takeCounter_stream (n : Nat) :
    takeCounter k n s =
      .next (s.put { atPosition s.env (position s.smd + k) s.smd with token := .code n }) := by
  rw [takeCounter, skipBits_stream hcore hwf hp, if_neg hk]
  rfl

/-- A cell code of `k` bits inside the buffer, after a counter, moves the cursor over them, stores the token and answers
its cell (R90, R94). -/
theorem takeCellCode_stream {n : Nat} (htok : s.smd.token = .code n) (c : Cell) :
    takeCellCode k c s =
      .next (s.put { atPosition s.env (position s.smd + k) s.smd with
        pending := countOf (n - 1), cached := some c, token := .idle, response := some (.ok (.cell c)) }) := by
  rw [takeCellCode, htok, skipBits_stream hcore hwf hp, if_neg hk]
  rfl

end Sys2Proof.Safety

open Sys2Proof Sys2Proof.Machine Sys2Proof.Safety

/-- Settles O27: each counter is `takeCounter` with its number of bits and its run length. -/
theorem counterSymbolsGiveRunLength : Obligations.CounterSymbolsGiveRunLength := by
  intro s hcore hwf x hx hp
  simp only [List.mem_cons, List.not_mem_nil, or_false] at hx
  obtain rfl | rfl | rfl | rfl | rfl | rfl | rfl | rfl | rfl := hx <;>
    exact takeCounter_stream hcore hwf (by decide) hp _

/-- Settles O28: each cell code is `takeCellCode` with its number of bits and its cell. -/
theorem cellCodeSymbolsStoreToken : Obligations.CellCodeSymbolsStoreToken := by
  intro s n hcore hwf htok x hx hp
  simp only [List.mem_cons, List.not_mem_nil, or_false] at hx
  obtain rfl | rfl | rfl | rfl | rfl := hx <;>
    exact takeCellCode_stream hcore hwf (by decide) hp htok _

end

section
/-! The bit reader's commands (R80 to R87): the gate's two refusals, the primitives behind an open gate, and NEXT_BITs
in a row from one position of the stream. -/

namespace Sys2Proof.Machine

/-! ### The gate when it does not open (R80) -/

/-- With `READY = 0` a primitive is refused, whatever its work. -/
theorem gated_not_ready {s : State} (hr : s.smd.ready = false) (body : Res Data) :
    gated s body = .next (s.put (refuse .notInitialised s.smd)) := by
  unfold gated; rw [if_pos hr]

/-- With `READY = 1` and `ERR = 1` a primitive repeats the recorded error, whatever its work. -/
theorem gated_err {s : State} (hr : s.smd.ready = true) (he : s.smd.err = true) (body : Res Data) :
    gated s body = .next (s.put (repeatError s.smd)) := by
  unfold gated; simp [hr, he]

/-! ### The gated primitives, by their own work -/

theorem exec_nextBit (arg : BitVec 32) (s : State) :
    exec (.nextBit arg) s = gated s ((fetchBit s.env s.smd).map .bit) := rfl

theorem exec_nextCell (arg : BitVec 32) (s : State) :
    exec (.nextCell arg) s = gated s ((cellStep s.env s.smd).map .cell) := rfl

theorem exec_readByte (arg : BitVec 32) (s : State) :
    exec (.readByte arg) s = gated s ((readByteBody s.env s.smd).map .byte) := rfl

/-! ### READ_BYTE's own work (R84) -/

theorem readByteBody_inside {e : Env} {r : Smd} (h : r.bytePtr.toNat < e.cfg.bufLen) :
    readByteBody e r =
      .ok (e.buf.read r.bytePtr.toNat) { r with bytePtr := r.bytePtr + 1#32, bitsLeft := 0#4 } := by
  rw [readByteBody, memRead_inside h, Res.bind_ok]

theorem readByteBody_past {e : Env} {r : Smd} (h : e.cfg.bufLen ≤ r.bytePtr.toNat) :
    readByteBody e r = .raised .bufferExhausted r.bytePtr.toNat r := by
  rw [readByteBody, memRead_past h, Res.bind_raised]

end Sys2Proof.Machine

open Sys2Proof Sys2Proof.Machine Sys2Proof.Safety

/-- Settles O17: INIT is `startCore` on a cleared status, in every state. -/
theorem initStartsStream : Obligations.InitStartsStream := fun _ _ => rfl

/-- Settles O18: the three primitives stand behind one gate, which decides without their work. -/
theorem gateRefusesOrRepeatsError : Obligations.GateRefusesOrRepeatsError := by
  intro s arg i hi
  have hgate : ∃ body, exec i s = gated s body := by
    simp only [List.mem_cons, List.not_mem_nil, or_false] at hi
    obtain rfl | rfl | rfl := hi
    · exact ⟨_, exec_nextBit arg s⟩
    · exact ⟨_, exec_nextCell arg s⟩
    · exact ⟨_, exec_readByte arg s⟩
  obtain ⟨body, hbody⟩ := hgate
  rw [hbody]
  exact ⟨fun hr => gated_not_ready hr body, fun hr he => gated_err hr he body⟩

/-- Settles O20: the gate is open, and READ_BYTE reads the buffer inside its length and raises past it. -/
theorem readByteAnswersByteAtCursor : Obligations.ReadByteAnswersByteAtCursor := by
  intro s arg hr he
  rw [exec_readByte, gated_open hr he]
  constructor
  · intro hlt
    rw [readByteBody_inside hlt]
    rfl
  · intro hge
    rw [readByteBody_past hge]
    rfl

/-- Settles O19: the gate is open, and FetchBit delivers the stream's bit or finds no byte to latch. -/
theorem nextBitDeliversStreamBit : Obligations.NextBitDeliversStreamBit := by
  intro s arg hr he hcore hwf
  rw [exec_nextBit, gated_open hr he]
  constructor
  · intro hlt
    rw [fetchBit_stream hcore hwf hlt]
    rfl
  · intro h0 hge
    rw [fetchBit_exhausted h0 hge]
    rfl

namespace Sys2Proof.Safety

/-! ### NEXT_BITs in a row (R85, R86) -/

/-- The machine with configuration `e` delivers bits, and its cursor stands at position `q` of the stream with no byte
latched before its first bit is needed: `BYTE_PTR` is `q / 8`, rounded up (R85). -/
structure DeliversFrom (e : Env) (q : Nat) (s : State) : Prop where
  env : s.env = e
  ready : s.smd.ready = true
  err : s.smd.err = false
  core : CoreOk e s.smd
  pos : position s.smd = q
  bytePtr : s.smd.bytePtr.toNat = (q + 7) / 8

/-- INIT sets the cursor to the first bit of its byte. -/
theorem deliversFrom_init {s t : State} {start : BitVec 32} (h : exec (.init start) s = .next t) :
    DeliversFrom s.env (8 * start.toNat) t := by
  rw [initStartsStream] at h
  obtain rfl := Host.Outcome.next.inj h
  exact ⟨rfl, rfl, rfl, coreOk_startCore s.env start s.smd, rfl, by simp only [put_smd]; omega⟩

/-- Below the buffer's end NEXT_BIT answers the bit at the cursor's position and moves on to the next one. -/
theorem DeliversFrom.nextBit {e : Env} {q : Nat} {s : State} (h : DeliversFrom e q s) (hwf : e.cfg.wf)
    (hq : q < 8 * e.cfg.bufLen) (arg : BitVec 32) :
    ∃ t, exec (.nextBit arg) s = .next t ∧ t.smd.response = some (.ok (.bit (streamBit e q))) ∧
      DeliversFrom e (q + 1) t := by
  obtain ⟨rfl, hr, he, hcore, rfl, -⟩ := h
  have hlen := hwf.1
  refine ⟨_, (nextBitDeliversStreamBit s arg hr he hcore hwf).1 hq, rfl, rfl, hr, he, ?_, ?_, ?_⟩
  · exact coreOk_atPosition (r := s.smd) hq hwf hcore
  · exact position_atPosition (r := s.smd) hq hwf
  · exact toNat_offsetOf (by omega)

/-- As long as the buffer has bits, NEXT_BITs in a row answer them in order. -/
theorem DeliversFrom.nextBits {e : Env} (hwf : e.cfg.wf) {k q : Nat} {s : State} (h : DeliversFrom e q s)
    (hk : q + k ≤ 8 * e.cfg.bufLen) :
    ∃ t, nextBits k s = some ((List.range k).map fun j => streamBit e (q + j), t) ∧ DeliversFrom e (q + k) t := by
  induction k generalizing q s with
  | zero => exact ⟨s, rfl, h⟩
  | succ k ih =>
    obtain ⟨u, hexec, hresp, hu⟩ := h.nextBit hwf (by omega) 0#32
    obtain ⟨t, hbits, ht⟩ := ih hu (by omega)
    have hshift : ∀ j, q + 1 + j = q + (j + 1) := by omega
    simp only [hshift] at hbits ht
    refine ⟨t, ?_, ht⟩
    rw [Safety.nextBits, hexec]
    simp [hresp, hbits, List.range_succ_eq_map, Function.comp_def]

/-- At the buffer's end NEXT_BIT raises at `BUF_LEN`. -/
theorem DeliversFrom.exhausted {e : Env} {s : State} (h : DeliversFrom e (8 * e.cfg.bufLen) s) (arg : BitVec 32) :
    exec (.nextBit arg) s = .next (s.put (withError .bufferExhausted e.cfg.bufLen s.smd)) := by
  obtain ⟨rfl, hr, he, hcore, hpos, hptr⟩ := h
  have hend : s.smd.bytePtr.toNat = s.env.cfg.bufLen := by omega
  rw [exec_nextBit, gated_open hr he, fetchBit_end hcore hpos.ge, hend]
  rfl

end Sys2Proof.Safety

/-- Settles O21: INIT's core delivers from the first bit of byte `start`, one bit of the stream after the other. -/
theorem nextBitsReadWholeStream : Obligations.NextBitsReadWholeStream := by
  intro s s0 start hwf hstart hinit k hk
  obtain ⟨t, hbits, ht⟩ := (deliversFrom_init hinit).nextBits hwf (k := k) (by omega)
  refine ⟨t, hbits, ?_, fun hall => ?_⟩
  · rw [ht.bytePtr]
    omega
  · rw [show 8 * start.toNat + k = 8 * s.env.cfg.bufLen by omega] at ht
    exact ht.exhausted 0#32
end

section
/-! The symbols at the bit cursor, told by the bits that `peekBits` finds there: in every state, ReadCounter and
ReadCellCode skip a symbol's bits where those stand next, and else run into the end that skipping the longest code runs
into. -/

namespace Sys2Proof.Safety

open Sys2Proof.Machine

/-! ### Codes and their instructions (R60, R61) -/

/-- A counter's code is that of one of the nine run lengths, and the instruction takes its bits. -/
theorem exec_of_encode_counter {i : Instr} {code : List Bool} (h : encode i = .counter code) :
    ∃ n, (1 ≤ n ∧ n ≤ 9) ∧ code = counterBits n ∧ ∀ s, exec i s = takeCounter code.length n s := by
  cases i with
  | run1 | run2 | run3 | run4 | run5 | run6 | run7 | run8 | run9 =>
    cases h
    exact ⟨_, by decide, rfl, fun _ => rfl⟩
  | _ => cases h

/-- A cell code is that of one of the five cells, and the instruction takes its bits. -/
theorem exec_of_encode_cellCode {i : Instr} {code : List Bool} (h : encode i = .cellCode code) :
    ∃ c, code = cellBits c ∧ ∀ s, exec i s = takeCellCode code.length c s := by
  cases i with
  | cellEmpty | cellWall | cellBarrel | cellBarrelSlot | cellBarrelPlaced =>
    cases h
    exact ⟨_, rfl, fun _ => rfl⟩
  | _ => cases h

theorem length_counterBits (n : Nat) : 1 ≤ (counterBits n).length ∧ (counterBits n).length ≤ 4 := by
  unfold counterBits
  split <;> simp [bitsOf]

theorem length_cellBits (c : Cell) : 1 ≤ (cellBits c).length ∧ (cellBits c).length ≤ 3 := by
  cases c <;> decide

/-! ### What stands next -/

/-- A bit and the bits after it stand next where FetchBit delivers the bit and the others stand next then. -/
theorem cons_prefix_peekBits {e : Env} {k : Nat} {r : Smd} {b : Bool} {code : List Bool} :
    b :: code <+: peekBits e (k + 1) r ↔ ∃ q, fetchBit e r = .ok b q ∧ code <+: peekBits e k q := by
  rw [peekBits]
  cases fetchBit e r with
  | ok a q => simp [List.cons_prefix_cons, eq_comm, and_assoc]
  | raised _ _ _ => simp
  | fault _ => simp

end Sys2Proof.Safety

namespace Sys2Proof

/-- A symbol decoder finds an instruction where its code stands at the head of the bits, and only there. -/
theorem TakesCode.map_fst_eq_ok_iff {kind : List Bool → Encoding}
    {dec : List Bool → Except Reject (Instr × List Bool)} (hdec : TakesCode kind dec) {bits : List Bool}
    {i : Instr} :
    (dec bits).map Prod.fst = .ok i ↔ ∃ code, encode i = kind code ∧ code <+: bits := by
  have hiff := hdec bits i
  constructor
  · intro h
    cases hx : dec bits with
    | error e => rw [hx] at h; cases h
    | ok x =>
      rw [hx] at h hiff
      cases h
      obtain ⟨code, hcode, happend⟩ := (hiff x.2).mp rfl
      exact ⟨code, hcode, x.2, happend⟩
  · rintro ⟨code, hcode, rest, happend⟩
    rw [(hiff rest).mpr ⟨code, hcode, happend⟩]
    rfl

end Sys2Proof

namespace Sys2Proof.Machine

open Sys2Proof.Safety

/-- A counter is fetched where its code stands next, and only there. -/
theorem fetchCounter_eq_ok_iff {s : State} {i : Instr} :
    fetchCounter s = .ok i ↔ ∃ code, encode i = .counter code ∧ code <+: peekBits s.env 4 s.smd :=
  decodeCounter_takesCode.map_fst_eq_ok_iff

/-- A cell code is fetched where it stands next, and only there. -/
theorem fetchCellCode_eq_ok_iff {s : State} {i : Instr} :
    fetchCellCode s = .ok i ↔ ∃ code, encode i = .cellCode code ∧ code <+: peekBits s.env 3 s.smd :=
  decodeCellCode_takesCode.map_fst_eq_ok_iff

/-! ### Reading a symbol that stands next -/

/-- The number that three bits give, most significant bit first. -/
theorem value_of_three_bits :
    ∀ v < 8, 4 * (Nat.testBit v 2).toNat + 2 * (Nat.testBit v 1).toNat + (Nat.testBit v 0).toNat = v := by
  decide

/-- ReadCounter skips the bits of the counter that stands next, and answers its run length (R91). -/
theorem readCounter_of_prefix {e : Env} {r : Smd} {n : Nat} (hn : 1 ≤ n ∧ n ≤ 9)
    (h : counterBits n <+: peekBits e 4 r) :
    ∃ q, skipBits e (counterBits n).length r = .ok () q ∧ readCounter e r = .ok n q := by
  by_cases h1 : n = 1
  · simp only [counterBits, if_pos h1, cons_prefix_peekBits] at h ⊢
    obtain ⟨q, hq, -⟩ := h
    simp [readCounter, skipBits, hq, h1]
  · simp only [counterBits, if_neg h1, bitsOf, cons_prefix_peekBits] at h ⊢
    obtain ⟨q1, hq1, q2, hq2, q3, hq3, q4, hq4, -⟩ := h
    refine ⟨q4, by simp [skipBits, hq1, hq2, hq3, hq4], ?_⟩
    have hvalue := value_of_three_bits (n - 2) (by omega)
    simp only [readCounter, hq1, hq2, hq3, hq4, Res.bind_ok, Bool.true_eq_false, if_false]
    congr 1
    omega

/-- ReadCellCode skips the bits of the cell code that stands next, and answers its cell (R94). -/
theorem readCellCode_of_prefix {e : Env} {r : Smd} {c : Cell} (h : cellBits c <+: peekBits e 3 r) :
    ∃ q, skipBits e (cellBits c).length r = .ok () q ∧ readCellCode e r = .ok c q := by
  cases c with
  | empty | wall | barrel =>
    simp only [cellBits, cons_prefix_peekBits] at h
    obtain ⟨q1, hq1, q2, hq2, -⟩ := h
    simp [cellBits, readCellCode, skipBits, hq1, hq2]
  | barrelSlot | barrelPlaced =>
    simp only [cellBits, cons_prefix_peekBits] at h
    obtain ⟨q1, hq1, q2, hq2, q3, hq3, -⟩ := h
    simp [cellBits, readCellCode, skipBits, hq1, hq2, hq3]

/-! ### Reading a symbol that the stream ends inside -/

/-- Where no whole counter stands next, ReadCounter ends as skipping four bits does: what would come after is reached on
neither side. -/
theorem readCounter_bind_of_cut {e : Env} {r : Smd} {x : Reject} (h : decodeCounter (peekBits e 4 r) = .error x)
    {β : Type} (f : Nat → Smd → Res β) (g : Unit → Smd → Res β) :
    (readCounter e r).bind f = (skipBits e 4 r).bind g := by
  cases h1 : fetchBit e r with
  | raised _ _ _ | fault _ => simp [readCounter, skipBits, h1]
  | ok b q1 =>
    cases b with
    | false => simp [peekBits, h1, decodeCounter] at h
    | true =>
      cases h2 : fetchBit e q1 with
      | raised _ _ _ | fault _ => simp [readCounter, skipBits, h1, h2]
      | ok d3 q2 =>
        cases h3 : fetchBit e q2 with
        | raised _ _ _ | fault _ => simp [readCounter, skipBits, h1, h2, h3]
        | ok d2 q3 =>
          cases h4 : fetchBit e q3 with
          | raised _ _ _ | fault _ => simp [readCounter, skipBits, h1, h2, h3, h4]
          | ok d1 q4 =>
            obtain ⟨y, hy⟩ := decodeCounter_complete (bits := peekBits e 4 r) (by simp [peekBits, h1, h2, h3, h4])
            cases h.symm.trans hy

/-- Where no whole cell code stands next, ReadCellCode ends as skipping three bits does. -/
theorem readCellCode_bind_of_cut {e : Env} {r : Smd} {x : Reject} (h : decodeCellCode (peekBits e 3 r) = .error x)
    {β : Type} (f : Cell → Smd → Res β) (g : Unit → Smd → Res β) :
    (readCellCode e r).bind f = (skipBits e 3 r).bind g := by
  cases h1 : fetchBit e r with
  | raised _ _ _ | fault _ => simp [readCellCode, skipBits, h1]
  | ok a q1 =>
    cases h2 : fetchBit e q1 with
    | raised _ _ _ | fault _ => simp [readCellCode, skipBits, h1, h2]
    | ok b q2 =>
      match a, b with
      | false, false | false, true | true, false => simp [peekBits, h1, h2, decodeCellCode] at h
      | true, true =>
        cases h3 : fetchBit e q2 with
        | raised _ _ _ | fault _ => simp [readCellCode, skipBits, h1, h2, h3]
        | ok c q3 =>
          obtain ⟨y, hy⟩ := decodeCellCode_complete (bits := peekBits e 3 r) (by simp [peekBits, h1, h2, h3])
          cases h.symm.trans hy

end Sys2Proof.Machine
end

section
/-! The stream at the bit cursor, under the core's invariant (R24): what stands next is what the buffer holds from the
cursor's position on, and what reads past the buffer's end raises there (R86, R87, R98). -/

namespace Sys2Proof.Safety

open Sys2Proof.Machine

/-! ### Codes in the stream -/

/-- Codes packed back to back stand in the stream one after the other (R65). -/
theorem streamHas_append {e : Env} {p : Nat} {a b : List Bool} :
    StreamHas e p (a ++ b) ↔ StreamHas e p a ∧ StreamHas e (p + a.length) b := by
  simp only [StreamHas, List.length_append, List.range_add, List.map_append, List.map_map]
  constructor
  · rintro ⟨hlen, hbits⟩
    obtain ⟨ha, hb⟩ := List.append_inj hbits (by simp)
    exact ⟨⟨by omega, ha⟩, by omega, by simpa only [Function.comp_def, Nat.add_assoc] using hb⟩
  · rintro ⟨⟨-, ha⟩, hlen, hb⟩
    rw [ha]
    exact ⟨by omega, by simpa only [Function.comp_def, ← Nat.add_assoc, List.append_cancel_left_eq] using hb⟩

section
variable {e : Env} {r : Smd} (hcore : CoreOk e r) (hwf : e.cfg.wf)
include hcore hwf

/-- The next bits are those of the buffer from the cursor's position on (R38, R46). -/
theorem peekBits_stream (k : Nat) :
    peekBits e k r =
      (List.range (min k (8 * e.cfg.bufLen - position r))).map fun j => streamBit e (position r + j) := by
  induction k generalizing r with
  | zero => simp [peekBits]
  | succ k ih =>
    by_cases hp : position r < 8 * e.cfg.bufLen
    · have hmin : min (k + 1) (8 * e.cfg.bufLen - position r) =
          min k (8 * e.cfg.bufLen - (position r + 1)) + 1 := by omega
      rw [peekBits, fetchBit_stream hcore hwf hp, hmin, List.range_succ_eq_map]
      simp [ih (coreOk_atPosition hp hwf hcore), position_atPosition hp hwf, Nat.add_assoc, Nat.add_comm 1,
        Function.comp_def]
    · rw [peekBits, fetchBit_end hcore (by omega), show 8 * e.cfg.bufLen - position r = 0 by omega]
      rfl

/-- A code stands next where it stands in the stream at the cursor's position. -/
theorem prefix_peekBits_iff_streamHas {code : List Bool} {k : Nat} (h1 : 1 ≤ code.length) (hk : code.length ≤ k) :
    code <+: peekBits e k r ↔ StreamHas e (position r) code := by
  rw [peekBits_stream hcore hwf, StreamHas, List.prefix_iff_eq_take, ← List.map_take, List.take_range]
  constructor
  · intro h
    have hlen := congrArg List.length h
    simp only [List.length_map, List.length_range] at hlen
    rw [← hlen] at h
    exact ⟨by omega, h.symm⟩
  · rintro ⟨hlen, hbits⟩
    rw [show min code.length (min k (8 * e.cfg.bufLen - position r)) = code.length by omega, hbits]

end

/-! ### The buffer's end -/

/-- How a stretch ends that reads past the buffer's end (R87, R98): with the bits before the end consumed, or, where
there is none, with nothing written. -/
def exhausted {α : Type} (e : Env) (r : Smd) : Res α :=
  if position r < 8 * e.cfg.bufLen then
    .raised .bufferExhausted e.cfg.bufLen (atPosition e (8 * e.cfg.bufLen) r)
  else .raised .bufferExhausted r.bytePtr.toNat r

theorem exhausted_of_lt {α : Type} {e : Env} {r : Smd} (h : position r < 8 * e.cfg.bufLen) :
    (exhausted e r : Res α) = .raised .bufferExhausted e.cfg.bufLen (atPosition e (8 * e.cfg.bufLen) r) := if_pos h

theorem exhausted_of_le {α : Type} {e : Env} {r : Smd} (h : 8 * e.cfg.bufLen ≤ position r) :
    (exhausted e r : Res α) = .raised .bufferExhausted r.bytePtr.toNat r := if_neg (by omega)

@[simp] theorem exhausted_bind {α β : Type} (e : Env) (r : Smd) (f : α → Smd → Res β) :
    (exhausted e r).bind f = exhausted e r := by
  unfold exhausted
  split <;> rfl

@[simp] theorem exhausted_map {α β : Type} (e : Env) (r : Smd) (f : α → β) :
    (exhausted e r).map f = exhausted e r := exhausted_bind e r _

/-- Bits read on the way to the end make no difference there. -/
theorem exhausted_atPosition {α : Type} {e : Env} (hwf : e.cfg.wf) {r : Smd} {p : Nat} (hr : position r < p)
    (hp : p ≤ 8 * e.cfg.bufLen) : (exhausted e (atPosition e p r) : Res α) = exhausted e r := by
  have hb := hwf.1
  have hpos : position (atPosition e p r) = p := position_atPosition hp hwf
  rw [exhausted_of_lt (r := r) (by omega)]
  obtain hlt | rfl := Nat.lt_or_eq_of_le hp
  · rw [exhausted_of_lt (by omega), atPosition_atPosition]
  · have hptr : (atPosition e (8 * e.cfg.bufLen) r).bytePtr.toNat = e.cfg.bufLen := by
      show (offsetOf ((8 * e.cfg.bufLen + 7) / 8)).toNat = _
      rw [toNat_offsetOf (by omega)]
      omega
    rw [exhausted_of_le hpos.ge, hptr]

section
variable {e : Env} {r : Smd} (hcore : CoreOk e r) (hwf : e.cfg.wf)
include hcore hwf

/-- Skipping more bits than are left ends at the buffer's end. -/
theorem skipBits_cut {k : Nat} (hk : k ≠ 0) (hp : 8 * e.cfg.bufLen < position r + k) :
    skipBits e k r = exhausted e r := by
  induction k generalizing r with
  | zero => exact absurd rfl hk
  | succ k ih =>
    by_cases hlt : position r < 8 * e.cfg.bufLen
    · have hpos := position_atPosition (r := r) hlt hwf
      rw [skipBits, fetchBit_stream hcore hwf hlt, Res.bind_ok,
        ih (coreOk_atPosition hlt hwf hcore) (by omega) (by omega), exhausted_atPosition hwf (by omega) hlt]
    · rw [skipBits, fetchBit_end hcore (by omega), exhausted_of_le (by omega), Res.bind_raised]

/-! ### Symbols and tokens in the stream -/

/-- ReadCounter reads the counter at the cursor (R91). -/
theorem readCounter_stream {n : Nat} (hn : 1 ≤ n ∧ n ≤ 9) (h : StreamHas e (position r) (counterBits n)) :
    readCounter e r = .ok n (atPosition e (position r + (counterBits n).length) r) := by
  have hlen := length_counterBits n
  obtain ⟨q, hskip, hread⟩ :=
    readCounter_of_prefix hn ((prefix_peekBits_iff_streamHas hcore hwf hlen.1 hlen.2).mpr h)
  rw [skipBits_stream hcore hwf h.1, if_neg (by omega)] at hskip
  cases hskip
  exact hread

/-- ReadCellCode reads the cell code at the cursor (R94). -/
theorem readCellCode_stream {c : Cell} (h : StreamHas e (position r) (cellBits c)) :
    readCellCode e r = .ok c (atPosition e (position r + (cellBits c).length) r) := by
  have hlen := length_cellBits c
  obtain ⟨q, hskip, hread⟩ :=
    readCellCode_of_prefix ((prefix_peekBits_iff_streamHas hcore hwf hlen.1 hlen.2).mpr h)
  rw [skipBits_stream hcore hwf h.1, if_neg (by omega)] at hskip
  cases hskip
  exact hread

/-- Where a complete code of at most `k` bits decodes nothing, the buffer ends within the next `k` bits (R62). -/
theorem end_lt_of_decode_error {dec : List Bool → Except Reject (Instr × List Bool)} {k : Nat} {x : Reject}
    (hcomplete : ∀ bits : List Bool, k ≤ bits.length → ∃ y, dec bits = .ok y)
    (hdec : dec (peekBits e k r) = .error x) : 8 * e.cfg.bufLen < position r + k := by
  by_contra hin
  obtain ⟨y, hy⟩ := hcomplete (peekBits e k r)
    (by rw [peekBits_stream hcore hwf, List.length_map, List.length_range]; omega)
  cases hdec.symm.trans hy

/-- Where no counter stands at the cursor, ReadCounter runs into the buffer's end (R98): four bits are a counter. -/
theorem readCounter_bind_cut (h : ∀ n, 1 ≤ n ∧ n ≤ 9 → ¬ StreamHas e (position r) (counterBits n))
    {β : Type} (f : Nat → Smd → Res β) : (readCounter e r).bind f = exhausted e r := by
  cases hdec : decodeCounter (peekBits e 4 r) with
  | ok x =>
    obtain ⟨code, hcode, happend⟩ := (decodeCounter_takesCode _ x.1 x.2).mp hdec
    obtain ⟨n, hn, rfl, -⟩ := exec_of_encode_counter hcode
    have hlen := length_counterBits n
    exact absurd ((prefix_peekBits_iff_streamHas hcore hwf hlen.1 hlen.2).mp ⟨_, happend⟩) (h n hn)
  | error x =>
    have hcut := end_lt_of_decode_error hcore hwf (fun _ => decodeCounter_complete) hdec
    rw [readCounter_bind_of_cut hdec f fun _ r => exhausted e r, skipBits_cut hcore hwf (by decide) hcut,
      exhausted_bind]

/-- Where no cell code stands at the cursor, ReadCellCode runs into the buffer's end (R98): three bits hold a cell
code. -/
theorem readCellCode_bind_cut (h : ∀ c, ¬ StreamHas e (position r) (cellBits c)) {β : Type}
    (f : Cell → Smd → Res β) : (readCellCode e r).bind f = exhausted e r := by
  cases hdec : decodeCellCode (peekBits e 3 r) with
  | ok x =>
    obtain ⟨code, hcode, happend⟩ := (decodeCellCode_takesCode _ x.1 x.2).mp hdec
    obtain ⟨c, rfl, -⟩ := exec_of_encode_cellCode hcode
    have hlen := length_cellBits c
    exact absurd ((prefix_peekBits_iff_streamHas hcore hwf hlen.1 hlen.2).mp ⟨_, happend⟩) (h c)
  | error x =>
    have hcut := end_lt_of_decode_error hcore hwf (fun _ => decodeCellCode_complete) hdec
    rw [readCellCode_bind_of_cut hdec f fun _ r => exhausted e r, skipBits_cut hcore hwf (by decide) hcut,
      exhausted_bind]

/-- A fresh token at the cursor is read and stored (R90). -/
theorem freshToken_stream {tok : Tok} (hn : tokOk tok) (h : StreamHas e (position r) (tokBits tok)) :
    freshToken e r =
      .ok tok.2 (storeToken tok.1 tok.2 (atPosition e (position r + (tokBits tok).length) r)) := by
  obtain ⟨hcounter, hcell⟩ := streamHas_append.mp h
  have hpos := position_atPosition (r := r) hcounter.1 hwf
  rw [freshToken, readCounter_stream hcore hwf hn hcounter, Res.bind_ok,
    readCellCode_stream (coreOk_atPosition hcounter.1 hwf hcore) hwf (by rwa [hpos]), Res.bind_ok,
    atPosition_atPosition, hpos, tokBits, List.length_append, Nat.add_assoc]

/-- Where no whole token stands at the cursor, the reading of one runs into the buffer's end, inside its counter or
inside its cell code (R98). -/
theorem freshToken_cut (h : ∀ tok, tokOk tok → ¬ StreamHas e (position r) (tokBits tok)) :
    freshToken e r = exhausted e r := by
  by_cases hcounter : ∃ n, (1 ≤ n ∧ n ≤ 9) ∧ StreamHas e (position r) (counterBits n)
  · obtain ⟨n, hn, hhas⟩ := hcounter
    have hpos := position_atPosition (r := r) hhas.1 hwf
    have hlen := length_counterBits n
    have hcell : ∀ c, ¬ StreamHas e (position r + (counterBits n).length) (cellBits c) :=
      fun c hc => h (n, c) hn (streamHas_append.mpr ⟨hhas, hc⟩)
    rw [freshToken, readCounter_stream hcore hwf hn hhas, Res.bind_ok,
      readCellCode_bind_cut (coreOk_atPosition hhas.1 hwf hcore) hwf (by rwa [hpos]),
      exhausted_atPosition hwf (by omega) hhas.1]
  · exact readCounter_bind_cut hcore hwf (fun n hn hhas => hcounter ⟨n, hn, hhas⟩) _

end

/-! ### Cell steps -/

/-- A pending run is continued (R90, R92). -/
theorem continueRun_pending {r : Smd} {c : Cell} (hc : r.cached = some c) (h8 : r.pending ≤ 8#4) :
    continueRun r = .ok c { r with pending := r.pending - 1#4 } := by
  simp [continueRun, hc, h8]

/-- With a run pending, a cell step is a continuation. -/
theorem cellStep_pending {e : Env} {r : Smd} (hp : 0#4 < r.pending) : cellStep e r = continueRun r := if_pos hp

/-- With no run pending, a cell step reads a token. -/
theorem cellStep_fresh {e : Env} {r : Smd} (hp : r.pending = 0#4) : cellStep e r = freshToken e r :=
  if_neg (by simp [hp])

end Sys2Proof.Safety

open Sys2Proof Sys2Proof.Machine Sys2Proof.Safety

/-- Settles O23: the gate is open, and a pending run is continued. -/
theorem nextCellContinuesRun : Obligations.NextCellContinuesRun := by
  intro s arg c hr he hp h8 hc
  rw [exec_nextCell, gated_open hr he, cellStep_pending hp, continueRun_pending hc h8]
  rfl

/-- Settles O24: the gate is open, and the token at the cursor is read and stored. -/
theorem nextCellReadsFreshToken : Obligations.NextCellReadsFreshToken := by
  intro s arg tok hr he hp hcore hwf hn h
  rw [exec_nextCell, gated_open hr he, cellStep_fresh hp, freshToken_stream hcore hwf hn h]
  rfl

/-- Settles O25: the gate is open, and the reading of a token runs into the buffer's end. -/
theorem nextCellCutByBufferEnd : Obligations.NextCellCutByBufferEnd := by
  intro s arg hr he hp hcore hwf h
  rw [exec_nextCell, gated_open hr he, cellStep_fresh hp, freshToken_cut hcore hwf h, exhausted_map]
  constructor
  · intro hlt
    rw [exhausted_of_lt hlt]
    rfl
  · intro hge
    rw [exhausted_of_le hge]
    rfl

/-- Settles O5: a code that stands in the stream at the cursor is the one that the step fetches. -/
theorem stepRunsSymbolAtCursor : Obligations.StepRunsSymbolAtCursor := by
  intro s i code hcore hwf h
  constructor
  · intro htok hcode
    obtain ⟨n, -, rfl, -⟩ := exec_of_encode_counter hcode
    have hlen := length_counterBits n
    have hnext := (prefix_peekBits_iff_streamHas hcore hwf hlen.1 hlen.2).mpr h
    simp only [step, htok, fetchCounter_eq_ok_iff.mpr ⟨_, hcode, hnext⟩]
  · intro n htok hcode
    obtain ⟨c, rfl, -⟩ := exec_of_encode_cellCode hcode
    have hlen := length_cellBits c
    have hnext := (prefix_peekBits_iff_streamHas hcore hwf hlen.1 hlen.2).mpr h
    simp only [step, htok, fetchCellCode_eq_ok_iff.mpr ⟨_, hcode, hnext⟩]
end

section
/-! The symbols as steps of their own: cut off by the buffer's end (R98), and as the two halves of a NEXT_CELL on a
fresh token (R59, R90). -/

namespace Sys2Proof.Safety

open Sys2Proof.Machine

/-! ### Symbols that the buffer's end cuts off -/

/-- A symbol of `k` bits that runs past the buffer's end ends as every stretch does that reads past it. -/
theorem takeSymbol_cut {s : State} (hcore : CoreOk s.env s.smd) (hwf : s.env.cfg.wf) {k : Nat} (hk : k ≠ 0)
    (hp : 8 * s.env.cfg.bufLen < position s.smd + k) :
    (∀ n, takeCounter k n s = finishSymbol s (exhausted s.env s.smd)) ∧
    (∀ n c, s.smd.token = .code n → takeCellCode k c s = finishSymbol s (exhausted s.env s.smd)) := by
  have hskip := skipBits_cut hcore hwf hk hp
  constructor
  · intro n
    rw [takeCounter, hskip, exhausted_bind]
  · intro n c htok
    rw [takeCellCode, htok]
    simp only [hskip, exhausted_bind]

end Sys2Proof.Safety

namespace Sys2Proof.Machine

open Sys2Proof.Safety

/-! ### The token being read is no part of how a stretch reads bits -/

/-- The same end of a stretch, with another token being read. -/
def Res.withToken {α : Type} (t : Token) : Res α → Res α
  | .ok a r => .ok a { r with token := t }
  | .raised k o r => .raised k o { r with token := t }
  | .fault f => .fault f

theorem Res.withToken_bind {α β : Type} {t : Token} (x : Res α) {f : α → Smd → Res β}
    (hf : ∀ a r, f a { r with token := t } = (f a r).withToken t) :
    (x.withToken t).bind f = (x.bind f).withToken t := by
  cases x with
  | ok a r => exact hf a r
  | raised _ _ _ | fault _ => rfl

theorem fetchBit_setToken (e : Env) (t : Token) (r : Smd) :
    fetchBit e { r with token := t } = (fetchBit e r).withToken t := by
  have hlatch : latch e { r with token := t } = (latch e r).withToken t := by
    unfold latch memRead
    split
    · split <;> rfl
    · rfl
  have hdeliver : ∀ q : Smd, deliver { q with token := t } = (deliver q).withToken t := by
    intro q
    unfold deliver
    split <;> rfl
  rw [fetchBit, hlatch]
  exact Res.withToken_bind _ fun _ q => hdeliver q

theorem skipBits_setToken (e : Env) (t : Token) (k : Nat) (r : Smd) :
    skipBits e k { r with token := t } = (skipBits e k r).withToken t := by
  induction k generalizing r with
  | zero => rfl
  | succ k ih =>
    rw [skipBits, fetchBit_setToken]
    exact Res.withToken_bind _ fun _ q => ih q

theorem peekBits_setToken (e : Env) (t : Token) (k : Nat) (r : Smd) :
    peekBits e k { r with token := t } = peekBits e k r := by
  induction k generalizing r with
  | zero => rfl
  | succ k ih =>
    rw [peekBits, peekBits, fetchBit_setToken]
    cases fetchBit e r with
    | ok b q => exact congrArg (b :: ·) (ih q)
    | raised _ _ _ | fault _ => rfl

/-! ### A symbol's step against the NEXT_CELL it belongs to -/

theorem Res.bind_assoc {α β γ : Type} (x : Res α) (f : α → Smd → Res β) (g : β → Smd → Res γ) :
    (x.bind f).bind g = x.bind fun a r => (f a r).bind g := by
  cases x <;> rfl

theorem token_of_coreOnly {r q : Smd} (h : CoreOnly r q) : q.token = r.token := (congrArg Smd.token h :)

/-- A symbol that ends inside its bits ends as the command does, whatever token is being read (R98). -/
theorem finishSymbol_cut {s : State} (r : Smd) {q : Smd} (hidle : q.token = .idle) (t : Token) (k : Nat) :
    finishSymbol (s.put r) ((skipBits s.env k { q with token := t }).bind fun _ _ => .fault .reservedValue) =
      finish .primitive s ((skipBits s.env k q).bind fun _ _ => .fault .reservedValue) := by
  rw [skipBits_setToken]
  cases hx : skipBits s.env k q with
  | ok _ _ | fault _ => rfl
  | raised kind a p =>
    have hp : p.token = .idle := (token_of_coreOnly ((skipBits_coreOnly _ _ _).of_raised hx)).trans hidle
    show Host.Outcome.next (s.put { raiseError .primitive kind a p with token := .idle }) = _
    rw [← hp]
    rfl

/-- The step on a whole counter reads what ReadCounter reads, and leaves its run length. -/
theorem step_counter {s : State} {i : Instr} (hidle : s.smd.token = .idle) (h : fetchCounter s = .ok i) :
    ∃ n q, readCounter s.env s.smd = .ok n q ∧ q.token = .idle ∧
      step (s.put { s.smd with token := .counter }) = .next (s.put { q with token := .code n }) := by
  obtain ⟨code, hcode, hnext⟩ := fetchCounter_eq_ok_iff.mp h
  obtain ⟨n, hn, rfl, hexec⟩ := exec_of_encode_counter hcode
  obtain ⟨q, hskip, hread⟩ := readCounter_of_prefix hn hnext
  have hfetch : fetchCounter (s.put { s.smd with token := .counter }) = .ok i := by
    simpa only [fetchCounter, put_smd, put_env, peekBits_setToken] using h
  refine ⟨n, q, hread, (token_of_coreOnly ((skipBits_coreOnly _ _ _).of_ok hskip)).trans hidle, ?_⟩
  simp only [step, put_smd, hfetch, hexec, takeCounter, put_env, skipBits_setToken, hskip]
  rfl

/-- The step on a counter that the stream ends inside ends as a NEXT_CELL on it does. -/
theorem step_counter_cut {s : State} (hidle : s.smd.token = .idle) (h : ∀ i, fetchCounter s ≠ .ok i) :
    step (s.put { s.smd with token := .counter }) = finish .primitive s ((freshToken s.env s.smd).map .cell) := by
  cases hdec : decodeCounter (peekBits s.env 4 s.smd) with
  | ok x => exact absurd (by rw [fetchCounter, hdec]; rfl) (h x.1)
  | error x =>
    have hdec' : decodeCounter (peekBits s.env 4 { s.smd with token := .counter }) = .error x := by
      rwa [peekBits_setToken]
    have hstep : step (s.put { s.smd with token := .counter }) =
        cutCounter (s.put { s.smd with token := .counter }) := by
      simp only [step, fetchCounter, put_smd, put_env, hdec', Except.map]
    rw [hstep, cutCounter, freshToken, Res.map, Res.map, Res.bind_assoc, put_env, put_smd,
      readCounter_bind_of_cut hdec' _ fun _ _ => .fault .reservedValue,
      readCounter_bind_of_cut hdec _ fun _ _ => .fault .reservedValue]
    exact finishSymbol_cut _ hidle .counter 4

/-- The step on a cell code, whole or cut, ends as what a NEXT_CELL does after its counter. -/
theorem step_cellCode {s : State} {q : Smd} (hidle : q.token = .idle) (n : Nat) :
    step (s.put { q with token := .code n }) =
      finish .primitive s (((readCellCode s.env q).bind fun c r => .ok c (storeToken n c r)).map .cell) := by
  cases hfetch : fetchCellCode (s.put { q with token := .code n }) with
  | ok j =>
    obtain ⟨code, hcode, hnext⟩ := fetchCellCode_eq_ok_iff.mp hfetch
    obtain ⟨c, rfl, hexec⟩ := exec_of_encode_cellCode hcode
    rw [put_env, put_smd, peekBits_setToken] at hnext
    obtain ⟨p, hskip, hread⟩ := readCellCode_of_prefix hnext
    have hp : p.token = .idle := (token_of_coreOnly ((skipBits_coreOnly _ _ _).of_ok hskip)).trans hidle
    simp only [step, put_smd, hfetch, hexec, takeCellCode, put_env, skipBits_setToken, hskip, hread]
    show Host.Outcome.next (s.put { respond (.cell c) (storeToken n c p) with token := .idle }) = _
    rw [← hp]
    rfl
  | error x =>
    have hstep : step (s.put { q with token := .code n }) = cutCellCode (s.put { q with token := .code n }) := by
      simp only [step, put_smd, hfetch]
    cases hdec : decodeCellCode (peekBits s.env 3 q) with
    | ok y =>
      rw [fetchCellCode, put_env, put_smd, peekBits_setToken, hdec] at hfetch
      cases hfetch
    | error y =>
      rw [hstep, cutCellCode, Res.map, Res.map, Res.bind_assoc, put_env, put_smd,
        readCellCode_bind_of_cut (by rwa [peekBits_setToken]) _ fun _ _ => .fault .reservedValue,
        readCellCode_bind_of_cut hdec _ fun _ _ => .fault .reservedValue]
      exact finishSymbol_cut _ hidle (.code n) 3

end Sys2Proof.Machine

open Sys2Proof Sys2Proof.Machine Sys2Proof.Safety

/-- Settles O29: a counter, or a cell code after a counter, takes `k` bits and runs past the buffer's end. -/
theorem symbolCutByBufferEnd : Obligations.SymbolCutByBufferEnd := by
  intro s i k hcore hwf hi
  have hcut : k ≠ 0 ∧ (8 * s.env.cfg.bufLen < position s.smd + k →
      exec i s = finishSymbol s (exhausted s.env s.smd)) := by
    simp only [List.mem_cons, List.not_mem_nil, or_false, Prod.mk.injEq] at hi
    obtain hi | ⟨⟨n, htok⟩, hi⟩ := hi
    · obtain ⟨rfl, rfl⟩ | ⟨rfl, rfl⟩ | ⟨rfl, rfl⟩ | ⟨rfl, rfl⟩ | ⟨rfl, rfl⟩ | ⟨rfl, rfl⟩ | ⟨rfl, rfl⟩ |
        ⟨rfl, rfl⟩ | ⟨rfl, rfl⟩ := hi <;>
      exact ⟨by decide, fun hp => (takeSymbol_cut hcore hwf (by decide) hp).1 _⟩
    · obtain ⟨rfl, rfl⟩ | ⟨rfl, rfl⟩ | ⟨rfl, rfl⟩ | ⟨rfl, rfl⟩ | ⟨rfl, rfl⟩ := hi <;>
      exact ⟨by decide, fun hp => (takeSymbol_cut hcore hwf (by decide) hp).2 n _ htok⟩
  obtain ⟨hk, hexec⟩ := hcut
  constructor
  · intro hlt hp
    rw [hexec hp, exhausted_of_lt hlt]
    rfl
  · intro hge
    rw [hexec (by omega), exhausted_of_le hge]
    rfl

/-- Settles O31: the counter's step reads what NEXT_CELL reads first, and the cell code's step does the rest. -/
theorem nextCellIsItsTwoSymbols : Obligations.NextCellIsItsTwoSymbols := by
  intro s arg hr he hp hidle
  rw [exec_nextCell, gated_open hr he, cellStep_fresh hp]
  constructor
  · rintro ⟨i, hi⟩
    obtain ⟨n, q, hread, hq, hstep⟩ := step_counter hidle hi
    refine ⟨n, _, hstep, rfl, ?_⟩
    rw [step_cellCode hq, freshToken, hread, Res.bind_ok]
  · exact step_counter_cut hidle
end

section
/-! NEXT_CELLs in a row (R96, R101): one run after another, as the tokens of the stream give them. -/

namespace Sys2Proof.Safety

open Sys2Proof.Machine

/-- The machine with configuration `e` answers cells: its cursor stands at position `q` of the stream, `p` cells of the
last run are pending, and `c` is the cached cell. -/
structure AnswersCells (e : Env) (q p : Nat) (c : Option Cell) (s : State) : Prop where
  env : s.env = e
  ready : s.smd.ready = true
  err : s.smd.err = false
  core : CoreOk e s.smd
  pos : position s.smd = q
  pending : s.smd.pending.toNat = p
  cached : s.smd.cached = c

/-- NEXT_CELLs in a row are those before any point and those after it. -/
theorem nextCells_add {a b : Nat} {s t u : State} {xs ys : List Cell} (ha : nextCells a s = some (xs, t))
    (hb : nextCells b t = some (ys, u)) : nextCells (a + b) s = some (xs ++ ys, u) := by
  induction a generalizing s xs with
  | zero =>
    cases ha
    rwa [Nat.zero_add]
  | succ a ih =>
    rw [Nat.add_right_comm]
    unfold nextCells at ha ⊢
    cases hx : exec (.nextCell 0#32) s with
    | fault _ | refused _ => rw [hx] at ha; cases ha
    | next v =>
      simp only [hx] at ha ⊢
      split at ha
      · obtain ⟨⟨zs, w⟩, hrest, hpair⟩ := Option.map_eq_some_iff.mp ha
        cases hpair
        simp only [ih hrest, Option.map_some, List.cons_append]
      · cases ha

theorem nextCells_one {s t : State} {c : Cell} (h : exec (.nextCell 0#32) s = .next t)
    (hresp : t.smd.response = some (.ok (.cell c))) : nextCells 1 s = some ([c], t) := by
  simp [nextCells, h, hresp]

section
variable {e : Env} {q p : Nat}

/-- A pending run answers its cell as long as it lasts, and the cursor stays (R92). -/
theorem AnswersCells.continueRun {c : Cell} {s : State} (h : AnswersCells e q p (some c) s) {m : Nat} (hm : m ≤ p) :
    ∃ t, nextCells m s = some (List.replicate m c, t) ∧ AnswersCells e q (p - m) (some c) t := by
  induction m generalizing p s with
  | zero => exact ⟨s, rfl, h⟩
  | succ m ih =>
    obtain ⟨rfl, hr, he, hcore, hpos, hpend, hc⟩ := h
    have h8 : s.smd.pending ≤ 8#4 := hcore.2.2.1
    have hexec := nextCellContinuesRun s 0#32 c hr he (by bv_omega) h8 hc
    have hsub : (s.smd.pending - 1#4).toNat = p - 1 := by bv_omega
    have hle : s.smd.pending - 1#4 ≤ 8#4 := by bv_omega
    have ht : AnswersCells s.env q (p - 1) (some c) (s.put { s.smd with
        pending := s.smd.pending - 1#4, response := some (.ok (.cell c)) }) :=
      ⟨rfl, hr, he, coreOk_setRun (c := s.smd.cached) hcore hle (by simp [hc]), hpos, hsub, hc⟩
    obtain ⟨u, hrest, hu⟩ := ih ht (by omega)
    refine ⟨u, ?_, ?_⟩
    · rw [Nat.add_comm, List.replicate_add]
      exact nextCells_add (nextCells_one hexec rfl) hrest
    · rwa [Nat.sub_sub, Nat.add_comm] at hu

/-- With no run pending, up to as many NEXT_CELLs as the token at the cursor has cells answer its cell; the first reads
its bits (R90, R96). -/
theorem AnswersCells.token {c : Option Cell} {s : State} (hwf : e.cfg.wf) (h : AnswersCells e q 0 c s) {tok : Tok}
    (hn : tokOk tok) (hhas : StreamHas e q (tokBits tok)) {m : Nat} (h1 : 1 ≤ m) (hm : m ≤ tok.1) :
    ∃ t, nextCells m s = some (List.replicate m tok.2, t) ∧
      AnswersCells e (q + (tokBits tok).length) (tok.1 - m) (some tok.2) t := by
  obtain ⟨rfl, hr, he, hcore, rfl, hpend, -⟩ := h
  have hexec := nextCellReadsFreshToken s 0#32 tok hr he (BitVec.eq_of_toNat_eq hpend) hcore hwf hn hhas
  have hpos := position_atPosition (r := s.smd) hhas.1 hwf
  have ht : AnswersCells s.env (position s.smd + (tokBits tok).length) (tok.1 - 1) (some tok.2) (s.put
      { atPosition s.env (position s.smd + (tokBits tok).length) s.smd with
        pending := countOf (tok.1 - 1), cached := some tok.2, response := some (.ok (.cell tok.2)) }) :=
    ⟨rfl, hr, he, coreOk_storeToken (coreOk_atPosition hhas.1 hwf hcore) hn tok.2, hpos,
      toNat_countOf (by have := hn.2; omega), rfl⟩
  obtain ⟨u, hrest, hu⟩ := ht.continueRun (m := m - 1) (by omega)
  refine ⟨u, ?_, ?_⟩
  · obtain ⟨j, rfl⟩ : ∃ j, m = 1 + j := ⟨m - 1, by omega⟩
    rw [List.replicate_add]
    exact nextCells_add (nextCells_one hexec rfl) (by simpa using hrest)
  · rwa [show tok.1 - 1 - (m - 1) = tok.1 - m by omega] at hu

theorem expand_cons (tok : Tok) (ts : List Tok) : expand (tok :: ts) = List.replicate tok.1 tok.2 ++ expand ts := rfl

theorem toksBits_cons (tok : Tok) (ts : List Tok) : toksBits (tok :: ts) = tokBits tok ++ toksBits ts := rfl

/-- With no run pending, NEXT_CELLs answer the cells of the tokens at the cursor, up to some cell of the last one. -/
theorem AnswersCells.tokens {c : Option Cell} {s : State} (hwf : e.cfg.wf) (h : AnswersCells e q 0 c s)
    {ts : List Tok} {m : Nat} (hm : Supplies ts m) (hhas : StreamHas e q (toksBits ts)) :
    ∃ t, nextCells m s = some ((expand ts).take m, t) ∧
      AnswersCells e (q + (toksBits ts).length) ((expand ts).length - m) (ts.getLast?.map Prod.snd) t := by
  induction ts generalizing q m c s with
  | nil => exact absurd (hm.2.1.trans_le hm.2.2) (Nat.lt_irrefl 0)
  | cons tok rest ih =>
    obtain ⟨hok, hlow, hhigh⟩ := hm
    have hn : tokOk tok := hok tok List.mem_cons_self
    obtain ⟨hfirst, hrest⟩ := streamHas_append.mp (toksBits_cons tok rest ▸ hhas)
    cases rest with
    | nil =>
      have hlen : expand [tok] = List.replicate tok.1 tok.2 := by simp [expand]
      rw [hlen, List.length_replicate] at hhigh ⊢
      obtain ⟨t, hcells, ht⟩ := h.token hwf hn hfirst (by omega) hhigh
      refine ⟨t, ?_, ?_⟩
      · rw [hcells, List.take_replicate, Nat.min_eq_left hhigh]
      · simpa [toksBits] using ht
    | cons next rest =>
      rw [List.dropLast_cons_cons, expand_cons, List.length_append, List.length_replicate] at hlow
      rw [expand_cons, List.length_append, List.length_replicate] at hhigh
      obtain ⟨u, hcells, hu⟩ := h.token hwf hn hfirst hn.1 (le_refl _)
      rw [Nat.sub_self] at hu
      obtain ⟨t, hmore, ht⟩ := ih hu (m := m - tok.1)
        ⟨fun x hx => hok x (List.mem_cons_of_mem _ hx), by omega, by omega⟩ hrest
      refine ⟨t, ?_, ?_⟩
      · have hsum := nextCells_add hcells hmore
        rw [Nat.add_sub_cancel' (by omega)] at hsum
        rw [hsum, expand_cons tok, List.take_append, List.length_replicate, List.take_replicate,
          Nat.min_eq_right (by omega)]
      · rw [toksBits_cons tok, expand_cons tok, List.length_append, List.length_append, List.length_replicate,
          ← Nat.add_assoc, List.getLast?_cons_cons]
        rwa [show tok.1 + (expand (next :: rest)).length - m = (expand (next :: rest)).length - (m - tok.1) by omega]

end

end Sys2Proof.Safety

open Sys2Proof Sys2Proof.Machine Sys2Proof.Safety

/-- Settles O26: the ready core with no run pending answers cells from the cursor on. -/
theorem nextCellsFollowTokens : Obligations.NextCellsFollowTokens := by
  intro s ts m hr he hp hcore hwf hm hhas
  have hstart : AnswersCells s.env (position s.smd) 0 s.smd.cached s :=
    ⟨rfl, hr, he, hcore, rfl, by rw [hp]; rfl, rfl⟩
  obtain ⟨t, hcells, ht⟩ := hstart.tokens hwf hm hhas
  refine ⟨t, hcells, ht.pos, ?_, ht.cached⟩
  rw [← ht.pending, countOf_toNat]
end

section
/-! The table of offsets and what stands on it (R105 to R109): RESOLVE and DECODE_MAP by their own work on a 16-bit
index, the lookup's three outcomes, and the prolog's two cuts (R112). -/

namespace Sys2Proof.Machine

open Sys2Proof.Safety

/-! ### RESOLVE and DECODE_MAP of a 16-bit index (R72) -/

@[simp] theorem mapIndexOperand_setWidth (i : MapIndex) : mapIndexOperand (i.setWidth 32) = some i := by
  have hhigh : (i.setWidth 32).extractLsb' 16 16 = 0#16 := by
    ext k hk
    simp
  have hlow : (i.setWidth 32).extractLsb' 0 16 = i := by
    rw [BitVec.extractLsb'_setWidth_of_le (by decide), BitVec.extractLsb'_eq_self]
  rw [mapIndexOperand, if_pos hhigh, hlow]

theorem exec_resolve (i : MapIndex) (s : State) :
    exec (.resolve (i.setWidth 32)) s =
      finish (.resolve i) s ((resolveOffset s.env i s.smd).map fun a => .offset (offsetOf a)) := by
  simp only [exec, execResolve, mapIndexOperand_setWidth]

theorem exec_decodeMap (i : MapIndex) (s : State) :
    exec (.decodeMap (i.setWidth 32)) s = finish .decodeMap s (decodeBody s.env i (startDecode i s.smd)) := by
  simp only [exec, execDecodeMap, mapIndexOperand_setWidth]

/-! ### The lookup (R105, R106, R109) -/

/-- A 16-bit read that the buffer's end cuts raises at its first byte past it. -/
theorem memRead16LE_past {e : Env} {a : Nat} (h : e.cfg.bufLen ≤ a + 1) (r : Smd) :
    memRead16LE e a r = .raised .bufferExhausted (if e.cfg.bufLen ≤ a then a else a + 1) r := by
  rw [memRead16LE]
  split
  · rw [memRead_past ‹_›, Res.bind_raised]
  · rw [memRead_inside (by omega), Res.bind_ok, memRead_past h, Res.bind_raised]

theorem resolveOffset_outOfRange {e : Env} {i : MapIndex} (h : e.cfg.mapCount ≤ i.toNat) (r : Smd) :
    resolveOffset e i r = .raised .indexOutOfRange (e.cfg.tableBase + 2 * i.toNat) r := by
  rw [resolveOffset, if_pos h]

theorem resolveOffset_inside {e : Env} {i : MapIndex} (h : EntryInBuffer e i.toNat) (r : Smd) :
    resolveOffset e i r = .ok (recordBase e i.toNat) r := by
  rw [resolveOffset, if_neg (Nat.not_le.mpr h.1), memRead16LE_inside h.2, Res.bind_ok, recordBase, tableValue]

theorem resolveOffset_past {e : Env} {i : MapIndex} (hi : i.toNat < e.cfg.mapCount)
    (h : e.cfg.bufLen ≤ e.cfg.tableBase + 2 * i.toNat + 1) (r : Smd) :
    resolveOffset e i r = .raised .bufferExhausted
      (if e.cfg.bufLen ≤ e.cfg.tableBase + 2 * i.toNat then e.cfg.tableBase + 2 * i.toNat
        else e.cfg.tableBase + 2 * i.toNat + 1) r := by
  rw [resolveOffset, if_neg (Nat.not_le.mpr hi), memRead16LE_past h, Res.bind_raised]

/-- The lookup ends alike from all registers, which it leaves as they are (R107). -/
theorem resolveOffset_pure (e : Env) (i : MapIndex) :
    (∃ a, ∀ r, resolveOffset e i r = .ok a r) ∨ (∃ k a, ∀ r, resolveOffset e i r = .raised k a r) := by
  by_cases hi : e.cfg.mapCount ≤ i.toNat
  · exact .inr ⟨_, _, resolveOffset_outOfRange hi⟩
  · by_cases hb : e.cfg.tableBase + 2 * i.toNat + 1 < e.cfg.bufLen
    · exact .inl ⟨_, resolveOffset_inside ⟨Nat.not_le.mp hi, hb⟩⟩
    · exact .inr ⟨_, _, resolveOffset_past (Nat.not_le.mp hi) (Nat.not_lt.mp hb)⟩

/-! ### RESOLVE's answer, by the lookup's end (R107, R141) -/

theorem exec_resolve_of_ok {s : State} {i : MapIndex} {a : Nat} (h : resolveOffset s.env i s.smd = .ok a s.smd) :
    exec (.resolve (i.setWidth 32)) s = .next (s.put { s.smd with response := some (.ok (.offset (offsetOf a))) }) := by
  rw [exec_resolve, h]
  rfl

theorem exec_resolve_of_raised {s : State} {i : MapIndex} {k : ErrKind} {a : Nat}
    (h : resolveOffset s.env i s.smd = .raised k a s.smd) :
    exec (.resolve (i.setWidth 32)) s = .next (s.put { s.smd with response := some (.err k i (offsetOf a)) }) := by
  rw [exec_resolve, h]
  rfl

/-! ### DECODE_MAP up to the prolog (R112) -/

/-- A DECODE_MAP that raises while `MAP_IDX` is i ends with the error of map i, and `MAP_IDX` is written once more
(R123, R141). -/
theorem exec_decodeMap_of_raised {s : State} {i : MapIndex} {k : ErrKind} {a : Nat} {q : Smd}
    (h : decodeBody s.env i (startDecode i s.smd) = .raised k a { q with mapIdx := i }) :
    exec (.decodeMap (i.setWidth 32)) s = .next (s.put (decodeFailed k i a q)) := by
  rw [exec_decodeMap, h]
  rfl

theorem decodeBody_of_resolve_raised {e : Env} {i : MapIndex} {k : ErrKind} {a : Nat} {r q : Smd}
    (h : resolveOffset e i r = .raised k a q) : decodeBody e i r = .raised k a q := by
  rw [decodeBody, h, Res.bind_raised]

theorem decodeBody_of_prolog_raised {e : Env} {i : MapIndex} {k : ErrKind} {a : Nat} {r q : Smd}
    (hi : EntryInBuffer e i.toNat) (h : readProlog e (recordBase e i.toNat) r = .raised k a q) :
    decodeBody e i r = .raised k a q := by
  rw [decodeBody, resolveOffset_inside hi, Res.bind_ok, h, Res.bind_raised]

theorem readProlog_sizeX_past {e : Env} {base : Nat} (h : e.cfg.bufLen ≤ base) (r : Smd) :
    readProlog e base r = .raised .bufferExhausted base r := by
  rw [readProlog, memRead_past h, Res.bind_raised]

theorem readProlog_sizeY_past {e : Env} {base : Nat} (h : e.cfg.bufLen = base + 1) (r : Smd) :
    readProlog e base r = .raised .bufferExhausted (base + 1) { r with sizeX := e.buf.read base } := by
  rw [readProlog, memRead_inside (by omega), Res.bind_ok, memRead_past (by omega), Res.bind_raised]

end Sys2Proof.Machine

open Sys2Proof Sys2Proof.Machine Sys2Proof.Safety

/-- Settles O32: RESOLVE answers as its lookup ends, in each of the lookup's three cases. -/
theorem resolveAnswersRecordOffset : Obligations.ResolveAnswersRecordOffset := fun s _ =>
  ⟨fun hentry => exec_resolve_of_ok (resolveOffset_inside hentry s.smd),
    fun hrange => exec_resolve_of_raised (resolveOffset_outOfRange hrange s.smd),
    fun hi hpast => exec_resolve_of_raised (resolveOffset_past hi hpast s.smd)⟩

/-- Settles O33: the lookup ends alike from either SMD's registers. -/
theorem resolveIsPureLookup : Obligations.ResolveIsPureLookup := by
  intro s u i henv
  obtain ⟨a, ha⟩ | ⟨k, a, ha⟩ := resolveOffset_pure u.env i
  · exact ⟨_, exec_resolve_of_ok (henv ▸ ha s.smd), exec_resolve_of_ok (ha u.smd)⟩
  · exact ⟨_, exec_resolve_of_raised (henv ▸ ha s.smd), exec_resolve_of_raised (ha u.smd)⟩

/-- Settles O37: the lookup raises before DECODE_MAP reads a byte. -/
theorem decodeMapIndexOutOfRange : Obligations.DecodeMapIndexOutOfRange := fun _ _ hrange =>
  exec_decodeMap_of_raised (decodeBody_of_resolve_raised (resolveOffset_outOfRange hrange _))

/-- Settles O38: the lookup raises, or the prolog's first or second read does. -/
theorem decodeMapTableOrPrologCut : Obligations.DecodeMapTableOrPrologCut := by
  intro s i hi
  refine ⟨fun htable => ?_, fun htable hx => ?_, fun htable hy => ?_⟩
  · exact exec_decodeMap_of_raised (decodeBody_of_resolve_raised (resolveOffset_past hi htable _))
  · exact exec_decodeMap_of_raised (decodeBody_of_prolog_raised ⟨hi, htable⟩ (readProlog_sizeX_past hx _))
  · exact exec_decodeMap_of_raised (decodeBody_of_prolog_raised ⟨hi, htable⟩ (readProlog_sizeY_past hy _))
end

section
/-! The cell steps of DECODE_MAP as one loop over the map's cells in row-major order (R112 step 4, R115). -/

namespace Sys2Proof.Machine

open Sys2Proof.Safety

/-- `ROW` and `COL` at entry `k` of a map that is `x` cells wide (R115). -/
def enterCell (x k : Nat) (r : Smd) : Smd := { r with row := byteOf (k / x), col := byteOf (k % x) }

/-- Step `k` of the two loops of R112: the cell step for entry `k`, and its write. -/
def fillCell (e : Env) (x k : Nat) (r : Smd) : Res Unit :=
  (cellStep e (enterCell x k r)).bind fun c r => gridWrite k c r

/-- `n` steps of the two loops, from entry `k` on. -/
def fillCells (e : Env) (x : Nat) : (n k : Nat) → Smd → Res Unit
  | 0, _, r => .ok () r
  | n + 1, k, r => (fillCell e x k r).bind fun _ r => fillCells e x n (k + 1) r

theorem fillCells_add (e : Env) (x a b k : Nat) (r : Smd) :
    fillCells e x (a + b) k r = (fillCells e x a k r).bind fun _ r => fillCells e x b (k + a) r := by
  induction a generalizing k r with
  | zero => rw [Nat.zero_add]; rfl
  | succ a ih =>
    rw [show a + 1 + b = a + b + 1 by omega, show k + (a + 1) = k + 1 + a by omega]
    simp only [fillCells, ih, Res.bind_assoc]

theorem fillCells_one (e : Env) (x k : Nat) (r : Smd) : fillCells e x 1 k r = fillCell e x k r := by
  unfold fillCells
  cases fillCell e x k r <;> rfl

/-! ### The loops of R112 are this loop -/

theorem Res.Leaves.mono {α : Type} {P Q : Smd → Prop} {x : Res α} (hx : x.Leaves P) (h : ∀ r, P r → Q r) :
    x.Leaves Q := by
  cases x with
  | ok a r => exact h r hx
  | raised _ _ r => exact h r hx
  | fault _ => trivial

/-- Stretches that go on alike from all registers that the first one may leave. -/
theorem Res.Leaves.bind_congr {α β : Type} {P : Smd → Prop} {x : Res α} (hx : x.Leaves P) {f g : α → Smd → Res β}
    (h : ∀ a r, P r → f a r = g a r) : x.bind f = x.bind g := by
  cases x with
  | ok a r => exact h a r hx
  | raised _ _ _ => rfl
  | fault _ => rfl

/-- The loops stand in row `row` of a map that is `x` cells wide. -/
abbrev InRow (x row : Nat) (r : Smd) : Prop := r.sizeX.toNat = x ∧ r.row = byteOf row

section
variable {e : Env} {x row : Nat} {r : Smd}

theorem cellStep_inRow (h : InRow x row r) : (cellStep e r).Leaves (InRow x row) :=
  (cellStep_coreOnly e r).mono fun q hq => by rw [show q = _ from hq]; exact h

theorem gridWrite_inRow (h : InRow x row r) (k : Nat) (c : Cell) : (gridWrite k c r).Leaves (InRow x row) := by
  unfold gridWrite
  split
  · exact h
  · trivial

theorem fillCells_width (hx : r.sizeX.toNat = x) (n k : Nat) : (fillCells e x n k r).Leaves (·.sizeX.toNat = x) := by
  induction n generalizing k r with
  | zero => exact hx
  | succ n ih =>
    have hcell : (fillCell e x k r).Leaves (InRow x (k / x)) :=
      (cellStep_inRow (r := enterCell x k r) ⟨hx, rfl⟩).bind (fun _ h => h)
        fun c _ h => gridWrite_inRow h k c
    exact hcell.bind (fun _ h => h.1) fun _ _ h => ih h.1 (k + 1)

theorem fillColumns_eq_fillCells (h : InRow x row r) {n col : Nat} (hn : col + n ≤ x) :
    fillColumns e row n col r = fillCells e x n (row * x + col) r := by
  induction n generalizing col r with
  | zero => rfl
  | succ n ih =>
    have hdiv : (row * x + col) / x = row := Nat.div_eq_of_lt_le (by omega) (by rw [Nat.succ_mul]; omega)
    have hmod : (row * x + col) % x = col := by rw [Nat.mul_add_mod', Nat.mod_eq_of_lt (by omega)]
    have hset : enterCell x (row * x + col) r = { r with col := byteOf col } := by
      rw [enterCell, hdiv, hmod, ← h.2]
    rw [fillColumns, fillCells, fillCell, Res.bind_assoc, hset]
    refine (cellStep_inRow (r := { r with col := byteOf col }) h).bind_congr fun c q hq => ?_
    rw [hq.1]
    exact (gridWrite_inRow hq _ c).bind_congr fun _ p hp => ih hp (by omega)

/-- The two loops over the rest of a map, from the start of a row on. -/
theorem fillRows_eq_fillCells (hx : 0 < x) (hr : r.sizeX.toNat = x) (n : Nat) :
    fillRows e n row r = fillCells e x (n * x) (row * x) r := by
  induction n generalizing row r with
  | zero => rw [Nat.zero_mul]; rfl
  | succ n ih =>
    have hcolumns : fillColumns e row x 0 { r with row := byteOf row } = fillCells e x x (row * x) r := by
      obtain ⟨m, rfl⟩ : ∃ m, x = m + 1 := ⟨x - 1, by omega⟩
      exact fillColumns_eq_fillCells (r := { r with row := byteOf row }) ⟨hr, rfl⟩ (Nat.zero_add _).le
    rw [fillRows, hr, hcolumns, Nat.succ_mul, Nat.add_comm (n * x), fillCells_add, ← Nat.succ_mul]
    exact (fillCells_width hr _ _).bind_congr fun _ q hq => ih hq

/-- A map with no column makes no cell step, and the outer loop runs over its rows (R121). -/
theorem fillRows_of_no_column (hr : r.sizeX.toNat = 0) (n : Nat) :
    fillRows e n row r = .ok () { r with row := if n = 0 then r.row else byteOf (row + n - 1) } := by
  induction n generalizing row r with
  | zero => rfl
  | succ n ih =>
    rw [fillRows, hr, fillColumns, Res.bind_ok, ih (r := { r with row := byteOf row }) hr, if_neg (Nat.succ_ne_zero n)]
    cases n with
    | zero => rfl
    | succ n => rw [if_neg (Nat.succ_ne_zero n), show row + 1 + (n + 1) - 1 = row + (n + 1 + 1) - 1 by omega]

end

end Sys2Proof.Machine
end

section
/-! The cell steps of DECODE_MAP against the tokens of the stream (R96, R101, R115): after each step, the registers
told from the tokens read and the number of cells stored. -/

namespace Sys2Proof.Safety

open Sys2Proof.Machine

/-! ### Sequences of tokens -/

theorem expand_append (ts us : List Tok) : expand (ts ++ us) = expand ts ++ expand us := List.flatMap_append

theorem expand_singleton (tok : Tok) : expand [tok] = List.replicate tok.1 tok.2 := by simp [expand]

theorem length_expand_concat (ts : List Tok) (tok : Tok) :
    (expand (ts ++ [tok])).length = (expand ts).length + tok.1 := by
  rw [expand_append, expand_singleton, List.length_append, List.length_replicate]

/-- The last token's cells. -/
theorem getElem?_expand_concat {ts : List Tok} {tok : Tok} {m : Nat} (hlow : (expand ts).length ≤ m)
    (hhigh : m < (expand ts).length + tok.1) : (expand (ts ++ [tok]))[m]? = some tok.2 := by
  rw [expand_append, expand_singleton, List.getElem?_append_right hlow, List.getElem?_replicate, if_pos (by omega)]

theorem toksBits_append (ts us : List Tok) : toksBits (ts ++ us) = toksBits ts ++ toksBits us := List.flatMap_append

theorem toksBits_singleton (tok : Tok) : toksBits [tok] = tokBits tok := by simp [toksBits]

theorem toksBits_pos (tok : Tok) (ts : List Tok) : 0 < (toksBits (tok :: ts)).length := by
  have hcounter := (length_counterBits tok.1).1
  rw [toksBits_cons, tokBits, List.length_append, List.length_append]
  omega

/-- Tokens that supply cells are some tokens and a last one, which is begun. -/
theorem supplies_append_iff {ts : List Tok} {tok : Tok} {m : Nat} :
    Supplies (ts ++ [tok]) m ↔
      (∀ t ∈ ts, tokOk t) ∧ tokOk tok ∧ (expand ts).length < m ∧ m ≤ (expand ts).length + tok.1 := by
  simp only [Supplies, List.dropLast_concat, expand_append, expand_singleton, List.length_append, List.length_replicate,
    List.forall_mem_append, List.forall_mem_singleton, and_assoc]

theorem Supplies.exists_append {ts : List Tok} {m : Nat} (h : Supplies ts m) : ∃ us tok, ts = us ++ [tok] := by
  obtain rfl | ⟨us, tok, rfl⟩ := List.eq_nil_or_concat ts
  · exact absurd (h.2.1.trans_le h.2.2) (Nat.lt_irrefl 0)
  · exact ⟨us, tok, List.concat_eq_append⟩

/-! ### One cell step and the grid entry it writes -/

/-- The next entry of a grid that starts with the first cells of `cells`. -/
theorem set_take_append_drop {cells grid : List Cell} {k : Nat} {c : Cell} (hk : k < grid.length)
    (hc : cells[k]? = some c) :
    (cells.take k ++ grid.drop k).set k c = cells.take (k + 1) ++ grid.drop (k + 1) := by
  obtain ⟨hlt, -⟩ := List.getElem?_eq_some_iff.mp hc
  have hlen : (cells.take k).length = k := List.length_take_of_le hlt.le
  rw [List.set_append_right _ _ hlen.le, hlen, Nat.sub_self, List.drop_eq_getElem_cons hk, List.set_cons_zero,
    List.take_add_one, hc, List.append_assoc]
  rfl

section
variable {e : Env} {x k : Nat} {r : Smd}

theorem fillCell_of_cellStep {c : Cell} {q : Smd} (h : cellStep e (enterCell x k r) = .ok c q)
    (hk : k < q.grid.length) : fillCell e x k r = .ok () { q with grid := q.grid.set k c } := by
  rw [fillCell, h, Res.bind_ok, gridWrite_inside hk]

variable (hk : k < r.grid.length)
include hk

/-- With a run pending, a step of the loops stores the cached cell (R92). -/
theorem fillCell_continue {c : Cell} (hp : 0#4 < r.pending) (h8 : r.pending ≤ 8#4) (hc : r.cached = some c) :
    fillCell e x k r = .ok () { enterCell x k r with pending := r.pending - 1#4, grid := r.grid.set k c } :=
  fillCell_of_cellStep ((cellStep_pending (r := enterCell x k r) hp).trans (continueRun_pending hc h8)) hk

/-- With no run pending, a step of the loops reads the token at the cursor and stores its cell (R90). -/
theorem fillCell_fresh (hcore : CoreOk e r) (hwf : e.cfg.wf) (hp : r.pending = 0#4) {tok : Tok} (hn : tokOk tok)
    (h : StreamHas e (position r) (tokBits tok)) :
    fillCell e x k r = .ok () { enterCell x k (atPosition e (position r + (tokBits tok).length) r) with
      pending := countOf (tok.1 - 1), cached := some tok.2, grid := r.grid.set k tok.2 } :=
  have hread := freshToken_stream (r := enterCell x k r) hcore hwf hn h
  fillCell_of_cellStep ((cellStep_fresh (r := enterCell x k r) hp).trans hread) hk

end

/-! ### The loops over the tokens of the stream -/

/-- The SMD `r`, whose cursor stood at the tokens, after the loops have stored the first `m` cells of them: the last
token is begun, and the cursor stands behind it. -/
def cellsFilled (e : Env) (x : Nat) (ts : List Tok) (m : Nat) (r : Smd) : Smd :=
  { enterCell x (m - 1) (atPosition e (position r + (toksBits ts).length) r) with
    pending := countOf ((expand ts).length - m)
    cached := ts.getLast?.map Prod.snd
    grid := (expand ts).take m ++ r.grid.drop m }

/-- The SMD `r`, whose cursor stood at the tokens, after the loops have stored all of their cells. -/
def tokensFilled (e : Env) (x : Nat) : List Tok → Smd → Smd
  | [], r => r
  | tok :: ts, r => cellsFilled e x (tok :: ts) (expand (tok :: ts)).length r

/-- The SMD `r` with all of the tokens' cells stored and the next cell step begun, but for its cursor. -/
def tokensStored (x : Nat) (ts : List Tok) (r : Smd) : Smd :=
  { enterCell x (expand ts).length r with
    cached := ts.getLast?.map Prod.snd
    grid := expand ts ++ r.grid.drop (expand ts).length }

theorem tokensFilled_concat (e : Env) (x : Nat) (ts : List Tok) (tok : Tok) (r : Smd) :
    tokensFilled e x (ts ++ [tok]) r = cellsFilled e x (ts ++ [tok]) (expand (ts ++ [tok])).length r := by
  cases ts <;> rfl

theorem grid_tokensFilled (e : Env) (x : Nat) (ts : List Tok) (r : Smd) :
    (tokensFilled e x ts r).grid = expand ts ++ r.grid.drop (expand ts).length := by
  cases ts with
  | nil => rfl
  | cons => exact congrArg (· ++ _) List.take_length

/-- Whole tokens leave no run. -/
theorem pending_tokensFilled {e : Env} {x : Nat} {ts : List Tok} {r : Smd} (hp : r.pending = 0#4) :
    (tokensFilled e x ts r).pending = 0#4 := by
  cases ts with
  | nil => exact hp
  | cons => exact congrArg countOf (Nat.sub_self _)

/-- What the next cell step writes is all that the steps before it have written. -/
theorem enterCell_tokensFilled (e : Env) (x k p : Nat) (ts : List Tok) (r : Smd) (n : Count) (c : Option Cell)
    (g : List Cell) :
    { enterCell x k (atPosition e p (tokensFilled e x ts r)) with pending := n, cached := c, grid := g } =
      { enterCell x k (atPosition e p r) with pending := n, cached := c, grid := g } := by
  cases ts <;> rfl

/-- Inside a token, a step of the loops continues its run. -/
theorem fillCell_cellsFilled {e : Env} {x m : Nat} {r : Smd} {ts : List Tok} {tok : Tok} (hn : tokOk tok)
    (hlow : (expand ts).length < m) (hhigh : m < (expand ts).length + tok.1) (hg : m < r.grid.length) :
    fillCell e x m (cellsFilled e x (ts ++ [tok]) m r) = .ok () (cellsFilled e x (ts ++ [tok]) (m + 1) r) := by
  have hlen := length_expand_concat ts tok
  have hcell := getElem?_expand_concat hlow.le hhigh
  have hpend : (cellsFilled e x (ts ++ [tok]) m r).pending = countOf ((expand ts).length + tok.1 - m) := by
    rw [← hlen]
    rfl
  have hcount := toNat_countOf (n := (expand ts).length + tok.1 - m) (by omega)
  have hnext : countOf ((expand ts).length + tok.1 - m) - 1#4 = countOf ((expand ts).length + tok.1 - (m + 1)) := by
    rw [← countOf_toNat (_ - _)]
    congr 1
    bv_omega
  have hroom : m < (cellsFilled e x (ts ++ [tok]) m r).grid.length := by
    simp only [cellsFilled, List.length_append, List.length_take, List.length_drop]
    omega
  have hstep := fillCell_continue (e := e) (x := x) hroom (c := tok.2) (by rw [hpend]; bv_omega)
    (by rw [hpend]; bv_omega) (by simp [cellsFilled])
  rw [hstep, hpend, hnext, ← hlen, cellsFilled, set_take_append_drop hg hcell]
  rfl

section
variable {e : Env} {x : Nat} {r : Smd} (hwf : e.cfg.wf) {ts : List Tok} {tok : Tok}
include hwf

theorem position_tokensFilled (hhas : StreamHas e (position r) (toksBits ts)) :
    position (tokensFilled e x ts r) = position r + (toksBits ts).length := by
  cases ts with
  | nil => rfl
  | cons => exact position_atPosition (r := r) hhas.1 hwf

variable (hcore : CoreOk e r) (hp : r.pending = 0#4)
include hcore

theorem coreOk_tokensFilled (hhas : StreamHas e (position r) (toksBits ts)) : CoreOk e (tokensFilled e x ts r) := by
  cases ts with
  | nil => exact hcore
  | cons tok ts =>
    have hpend : countOf ((expand (tok :: ts)).length - (expand (tok :: ts)).length) ≤ 8#4 := by
      rw [Nat.sub_self]
      decide
    exact coreOk_setRun (c := (tok :: ts).getLast?.map Prod.snd) (coreOk_atPosition hhas.1 hwf hcore) hpend (by simp)

include hp

/-- After whole tokens, a step of the loops reads the next one. -/
theorem fillCell_tokensFilled (hn : tokOk tok) (hhas : StreamHas e (position r) (toksBits (ts ++ [tok])))
    (hg : (expand ts).length < r.grid.length) :
    fillCell e x (expand ts).length (tokensFilled e x ts r) =
      .ok () (cellsFilled e x (ts ++ [tok]) ((expand ts).length + 1) r) := by
  obtain ⟨hts, htok⟩ := streamHas_append.mp (toksBits_append ts [tok] ▸ hhas)
  rw [toksBits_singleton, ← position_tokensFilled (x := x) hwf hts] at htok
  have hgrid : (tokensFilled e x ts r).grid =
      (expand (ts ++ [tok])).take (expand ts).length ++ r.grid.drop (expand ts).length := by
    rw [grid_tokensFilled, expand_append, List.take_left]
  have hroom : (expand ts).length < (tokensFilled e x ts r).grid.length := by
    rw [grid_tokensFilled, List.length_append, List.length_drop]
    omega
  have hcell := getElem?_expand_concat (ts := ts) (tok := tok) (le_refl _) (by have := hn.1; omega)
  rw [fillCell_fresh hroom (coreOk_tokensFilled hwf hcore hts) hwf (pending_tokensFilled hp) hn htok,
    hgrid, set_take_append_drop hg hcell, enterCell_tokensFilled, position_tokensFilled hwf hts, cellsFilled,
    length_expand_concat, toksBits_append, toksBits_singleton, List.length_append, List.getLast?_concat,
    Nat.add_sub_cancel, Nat.add_sub_add_left, Nat.add_assoc]
  rfl

/-- After whole tokens, the loops store the cells of the next one: the first step reads it (R90), the others continue
its run (R92). -/
theorem fillCells_token (hn : tokOk tok) (hhas : StreamHas e (position r) (toksBits (ts ++ [tok]))) {m : Nat}
    (hm : m + 1 ≤ tok.1) (hg : (expand ts).length + (m + 1) ≤ r.grid.length) :
    fillCells e x (m + 1) (expand ts).length (tokensFilled e x ts r) =
      .ok () (cellsFilled e x (ts ++ [tok]) ((expand ts).length + (m + 1)) r) := by
  induction m with
  | zero => rw [fillCells_one, fillCell_tokensFilled hwf hcore hp hn hhas (by omega)]
  | succ m ih =>
    rw [fillCells_add, ih (by omega) (by omega), Res.bind_ok, fillCells_one,
      fillCell_cellsFilled hn (by omega) (by omega) (by omega)]
    rfl

/-- The loops store the cells of whole tokens at the cursor, in order. -/
theorem fillCells_tokens (hok : ∀ t ∈ ts, tokOk t) (hhas : StreamHas e (position r) (toksBits ts))
    (hg : (expand ts).length ≤ r.grid.length) :
    fillCells e x (expand ts).length 0 r = .ok () (tokensFilled e x ts r) := by
  induction ts using List.reverseRecOn with
  | nil => rfl
  | append_singleton ts tok ih =>
    obtain ⟨hts, htok⟩ := List.forall_mem_append.mp hok
    have hn : tokOk tok := htok tok List.mem_cons_self
    rw [length_expand_concat] at hg
    obtain ⟨m, hm⟩ : ∃ m, tok.1 = m + 1 := ⟨tok.1 - 1, by omega⟩
    rw [length_expand_concat, fillCells_add, ih hts (streamHas_append.mp (toksBits_append ts _ ▸ hhas)).1 (by omega),
      Res.bind_ok, Nat.zero_add, hm, fillCells_token hwf hcore hp hn hhas (by omega) (by omega), tokensFilled_concat,
      length_expand_concat, hm]

/-- The loops store the cells of the tokens at the cursor, in order, up to some cell of the last one (R96, R115). -/
theorem fillCells_supplies {m : Nat} (hm : Supplies ts m) (hhas : StreamHas e (position r) (toksBits ts))
    (hg : m ≤ r.grid.length) : fillCells e x m 0 r = .ok () (cellsFilled e x ts m r) := by
  obtain ⟨us, tok, rfl⟩ := hm.exists_append
  obtain ⟨hus, hn, hlow, hhigh⟩ := supplies_append_iff.mp hm
  obtain ⟨j, rfl⟩ : ∃ j, m = (expand us).length + (j + 1) := ⟨m - (expand us).length - 1, by omega⟩
  have hwhole := (streamHas_append.mp (toksBits_append us _ ▸ hhas)).1
  rw [fillCells_add, fillCells_tokens hwf hcore hp hus hwhole (by omega), Res.bind_ok,
    Nat.zero_add, fillCells_token hwf hcore hp hn hhas (by omega) hg]

omit hcore in
/-- Running into the buffer's end behind whole tokens is running into it from before them: the bits between make no
difference there (R98). -/
theorem exhausted_tokensFilled (hc : r.cached = none) (hhas : StreamHas e (position r) (toksBits ts)) :
    (exhausted e (enterCell x (expand ts).length (tokensFilled e x ts r)) : Res Unit) =
      exhausted e (tokensStored x ts r) := by
  cases ts with
  | nil =>
    rw [tokensStored, List.getLast?_nil, Option.map_none, ← hc]
    rfl
  | cons tok ts =>
    have hlt : position (tokensStored x (tok :: ts) r) < position r + (toksBits (tok :: ts)).length :=
      Nat.lt_add_of_pos_right (toksBits_pos tok ts)
    rw [← exhausted_atPosition hwf hlt hhas.1, tokensFilled, cellsFilled, List.take_length, Nat.sub_self,
      show countOf 0 = r.pending from hp.symm]
    rfl

/-- Where the buffer ends before the next token is whole, the loops end there, with the next cell step begun (R98,
R120). -/
theorem fillCells_cut (hc : r.cached = none) (hok : ∀ t ∈ ts, tokOk t)
    (hhas : StreamHas e (position r) (toksBits ts))
    (hcut : ∀ tok, tokOk tok → ¬ StreamHas e (position r + (toksBits ts).length) (tokBits tok)) {m : Nat}
    (hlt : (expand ts).length < m) (hg : (expand ts).length ≤ r.grid.length) :
    fillCells e x m 0 r = exhausted e (tokensStored x ts r) := by
  obtain ⟨j, rfl⟩ : ∃ j, m = (expand ts).length + 1 + j := ⟨m - (expand ts).length - 1, by omega⟩
  rw [← position_tokensFilled (x := x) hwf hhas] at hcut
  have hread := freshToken_cut (r := enterCell x (expand ts).length (tokensFilled e x ts r))
    (coreOk_tokensFilled hwf hcore hhas) hwf hcut
  have hstep := (cellStep_fresh (r := enterCell x (expand ts).length (tokensFilled e x ts r))
    (pending_tokensFilled hp)).trans hread
  rw [fillCells_add, fillCells_add, fillCells_tokens hwf hcore hp hok hhas hg, Res.bind_ok, fillCells_one, fillCell,
    Nat.zero_add, hstep, exhausted_bind, exhausted_bind, exhausted_tokensFilled hwf hp hc hhas]

end

end Sys2Proof.Safety
end

section
/-! DECODE_MAP behind the dimension check (R112 steps 3 to 7): the core is started, and the loops, the epilog and the
player's checks end in the registers that the record gives. -/

namespace Sys2Proof.Safety

open Sys2Proof.Machine

/-- The SMD inside a DECODE_MAP of map i that has started the core (R112, R114): `READY` and `MAP_IDX` are written again
when the command ends (R123). -/
def decoding (i : MapIndex) (r : Smd) : Smd := { r with ready := true, mapIdx := i }

/-- The stretches of R112 behind the loops. -/
def finishDecode (e : Env) (r : Smd) : Res Data :=
  (readEpilog e r).bind fun epilog r => (placePlayer e epilog r).bind fun _ r => .ok .none (endDecode r)

theorem exec_decodeMap_of_decoding_raised {s : State} {i : MapIndex} {k : ErrKind} {a : Nat} {q : Smd}
    (h : decodeBody s.env i (startDecode i s.smd) = .raised k a (decoding i q)) :
    exec (.decodeMap (i.setWidth 32)) s = .next (s.put (decodeFailed k i a q)) :=
  exec_decodeMap_of_raised (q := { q with ready := true }) h

/-! ### The prolog (R112, R113) -/

theorem readProlog_inside {e : Env} {i : Nat} (h : recordBase e i + 1 < e.cfg.bufLen) (r : Smd) :
    readProlog e (recordBase e i) r =
      if e.cfg.maxX ≤ (recordX e i).toNat ∨ e.cfg.maxY ≤ (recordY e i).toNat then
        .raised .invalidDimensions (recordBase e i) { r with sizeX := recordX e i, sizeY := recordY e i }
      else .ok () { r with sizeX := recordX e i, sizeY := recordY e i } := by
  rw [readProlog, memRead_inside (by omega), Res.bind_ok, memRead_inside h, Res.bind_ok]
  rfl

theorem decodeBody_of_prologOk {e : Env} {i : MapIndex} (h : PrologOk e i.toNat) (r : Smd) :
    decodeBody e i (startDecode i r) =
      (fillRows e (recordY e i.toNat).toNat 0 (decoding i (streamStarted e i.toNat r))).bind fun _ r =>
        finishDecode e r := by
  obtain ⟨hentry, hbase, hx, hy⟩ := h
  rw [decodeBody, resolveOffset_inside hentry, Res.bind_ok, readProlog_inside hbase,
    if_neg (not_or.mpr ⟨Nat.not_le.mpr hx, Nat.not_le.mpr hy⟩), Res.bind_ok]
  rfl

/-! ### The epilog (R117, R142) -/

theorem readEpilog_inside {e : Env} {r : Smd} {epilog : Nat} (hptr : r.bytePtr.toNat = epilog)
    (h : epilog + 1 < e.cfg.bufLen) : readEpilog e r = .ok epilog (epilogRead e epilog r) := by
  subst hptr
  rw [readEpilog, memRead_inside (by omega), Res.bind_ok, memRead_inside h, Res.bind_ok]
  rfl

theorem readEpilog_cut {e : Env} {r : Smd} {epilog : Nat} (hptr : r.bytePtr.toNat = epilog)
    (hle : epilog ≤ e.cfg.bufLen) (h : e.cfg.bufLen ≤ epilog + 1) :
    readEpilog e r = .raised .bufferExhausted e.cfg.bufLen (epilogCut e epilog r) := by
  subst hptr
  obtain hlt | heq := Nat.lt_or_eq_of_le hle
  · rw [readEpilog, memRead_inside hlt, Res.bind_ok, memRead_past h, Res.bind_raised, epilogCut, if_pos hlt,
      show e.cfg.bufLen = r.bytePtr.toNat + 1 by omega]
  · rw [readEpilog, memRead_past heq.ge, Res.bind_raised, epilogCut, if_neg (by omega), heq]

/-! ### The player (R118, R119) -/

theorem placePlayer_outside {e : Env} {r : Smd} (h : ¬ (r.manX.toNat < r.sizeX.toNat ∧ r.manY.toNat < r.sizeY.toNat))
    (base : Nat) : placePlayer e base r = .raised .invalidPlayerPosition base r := by
  rw [placePlayer, if_pos (by omega)]

theorem row_major_lt {x y a b : Nat} (hx : a < x) (hy : b < y) : b * x + a < x * y :=
  calc b * x + a < b * x + x := by omega
    _ = (b + 1) * x := (Nat.succ_mul b x).symm
    _ ≤ y * x := Nat.mul_le_mul_right x hy
    _ = x * y := Nat.mul_comm y x

theorem placePlayer_inside {e : Env} {r : Smd} (hx : r.sizeX.toNat < e.cfg.maxX) (hy : r.sizeY.toNat < e.cfg.maxY)
    (hmx : r.manX.toNat < r.sizeX.toNat) (hmy : r.manY.toNat < r.sizeY.toNat) {c : Cell}
    (hc : r.grid[r.manY.toNat * r.sizeX.toNat + r.manX.toNat]? = some c) (base : Nat) :
    placePlayer e base r =
      if c = .empty then .ok () { r with mapValid := true } else .raised .invalidPlayerPlacement base r := by
  rw [placePlayer, if_neg (by omega), gridRead, if_pos (row_major_lt hmx hmy), hc]
  rfl

/-! ### The stream behind the prolog (R114) -/

theorem coreOk_streamStarted (e : Env) (i : MapIndex) (r : Smd) : CoreOk e (decoding i (streamStarted e i.toNat r)) :=
  coreOk_of_drained rfl nofun (by decide : 0#4 ≤ 8#4)

theorem bytePtr_streamStarted {e : Env} {i : MapIndex} (hwf : e.cfg.wf) (h : PrologOk e i.toNat) (r : Smd) :
    (streamStarted e i.toNat r).bytePtr.toNat = recordBase e i.toNat + 2 := by
  obtain ⟨-, hbase, -, -⟩ := h
  have hb := hwf.1
  exact toNat_offsetOf (by omega)

theorem position_streamStarted {e : Env} {i : MapIndex} (hwf : e.cfg.wf) (h : PrologOk e i.toNat) (r : Smd) :
    position (decoding i (streamStarted e i.toNat r)) = 8 * (recordBase e i.toNat + 2) :=
  congrArg (8 * ·) (bytePtr_streamStarted hwf h r)

/-! ### A record with a zero dimension (R121) -/

theorem fillRows_of_zero {e : Env} {i : MapIndex} (hzero : recordX e i.toNat = 0#8 ∨ recordY e i.toNat = 0#8)
    (r : Smd) :
    fillRows e (recordY e i.toNat).toNat 0 (decoding i (streamStarted e i.toNat r)) =
      .ok () (decoding i (noCellsRead e i.toNat r)) := by
  by_cases hy : recordY e i.toNat = 0#8
  · simp only [noCellsRead, hy, if_true]
    rfl
  · have hx : recordX e i.toNat = 0#8 := hzero.resolve_right hy
    have hwidth : (decoding i (streamStarted e i.toNat r)).sizeX.toNat = 0 := congrArg BitVec.toNat hx
    have hrows : (recordY e i.toNat).toNat ≠ 0 := fun h => hy (BitVec.eq_of_toNat_eq h)
    rw [fillRows_of_no_column hwidth, if_neg hrows, noCellsRead, if_neg hy, Nat.zero_add]
    rfl

/-! ### A record with cells (R115 to R117) -/

/-- A map that passes the dimension check fits the grid store (R27). -/
theorem cells_le_gridCap {e : Env} {i : Nat} (h : PrologOk e i) :
    (recordX e i).toNat * (recordY e i).toNat ≤ e.cfg.gridCap := by
  obtain ⟨-, -, hx, hy⟩ := h
  exact Nat.mul_le_mul (Nat.le_sub_one_of_lt hx) (Nat.le_sub_one_of_lt hy)

/-- The epilog starts in the buffer, or just past its end. -/
theorem recordEnd_le {e : Env} {i : Nat} {ts : List Tok} (h : StreamHas e (8 * (recordBase e i + 2)) (toksBits ts)) :
    recordEnd e i ts ≤ e.cfg.bufLen := by
  have hin := h.1
  unfold recordEnd
  omega

section
variable {e : Env} {i : MapIndex} {ts : List Tok} (hwf : e.cfg.wf) (hprolog : PrologOk e i.toNat) (r : Smd)

/-- With at least one cell, the two loops are one over all cells. -/
theorem fillRows_of_cells (hcells : 0 < (recordX e i.toNat).toNat * (recordY e i.toNat).toNat) :
    fillRows e (recordY e i.toNat).toNat 0 (decoding i (streamStarted e i.toNat r)) =
      fillCells e (recordX e i.toNat).toNat ((recordX e i.toNat).toNat * (recordY e i.toNat).toNat) 0
        (decoding i (streamStarted e i.toNat r)) := by
  have hx : 0 < (recordX e i.toNat).toNat := Nat.pos_of_mul_pos_right hcells
  rw [fillRows_eq_fillCells hx rfl, Nat.zero_mul, Nat.mul_comm]

include hwf hprolog

/-- What the loop leaves is told from the record. -/
theorem cellsFilled_streamStarted (hcells : 0 < (recordX e i.toNat).toNat * (recordY e i.toNat).toNat) :
    cellsFilled e (recordX e i.toNat).toNat ts ((recordX e i.toNat).toNat * (recordY e i.toNat).toNat)
      (decoding i (streamStarted e i.toNat r)) = decoding i (cellsRead e i.toNat ts r) := by
  have hx : 0 < (recordX e i.toNat).toNat := Nat.pos_of_mul_pos_right hcells
  have hy : 0 < (recordY e i.toNat).toNat := Nat.pos_of_mul_pos_left hcells
  have hend : (8 * (recordBase e i.toNat + 2) + (toksBits ts).length + 7) / 8 = recordEnd e i.toNat ts := by
    unfold recordEnd
    omega
  have hlast : (recordX e i.toNat).toNat * (recordY e i.toNat).toNat - 1 =
      (recordX e i.toNat).toNat * ((recordY e i.toNat).toNat - 1) + ((recordX e i.toNat).toNat - 1) := by
    rw [Nat.mul_sub_one]
    have := Nat.le_mul_of_pos_right (recordX e i.toNat).toNat hy
    omega
  rw [cellsFilled, enterCell, atPosition, position_streamStarted hwf hprolog, hend, hlast, Nat.mul_add_div hx,
    Nat.mul_add_mod, Nat.mod_eq_of_lt (by omega), Nat.div_eq_of_lt (by omega), Nat.add_zero]
  rfl

/-- The loops over a bitstream that is whole. -/
theorem fillRows_of_supplies (hg : r.grid.length = e.cfg.gridCap)
    (hm : Supplies ts ((recordX e i.toNat).toNat * (recordY e i.toNat).toNat))
    (hhas : StreamHas e (8 * (recordBase e i.toNat + 2)) (toksBits ts)) :
    fillRows e (recordY e i.toNat).toNat 0 (decoding i (streamStarted e i.toNat r)) =
      .ok () (decoding i (cellsRead e i.toNat ts r)) := by
  have hcells := Nat.zero_lt_of_lt hm.2.1
  rw [← position_streamStarted hwf hprolog r] at hhas
  rw [fillRows_of_cells r hcells, ← cellsFilled_streamStarted hwf hprolog r hcells]
  exact fillCells_supplies hwf (coreOk_streamStarted e i r) rfl hm hhas ((cells_le_gridCap hprolog).trans hg.ge)

/-- The loops over a bitstream that the buffer's end cuts off (R98, R120). -/
theorem fillRows_of_cut (hg : r.grid.length = e.cfg.gridCap) (hok : ∀ tok ∈ ts, tokOk tok)
    (hlt : (expand ts).length < (recordX e i.toNat).toNat * (recordY e i.toNat).toNat)
    (hhas : StreamHas e (8 * (recordBase e i.toNat + 2)) (toksBits ts))
    (hcut : ∀ tok, tokOk tok →
      ¬ StreamHas e (8 * (recordBase e i.toNat + 2) + (toksBits ts).length) (tokBits tok)) :
    fillRows e (recordY e i.toNat).toNat 0 (decoding i (streamStarted e i.toNat r)) =
      .raised .bufferExhausted e.cfg.bufLen (decoding i (streamCut e i.toNat ts r)) := by
  have hcells := Nat.zero_lt_of_lt hlt
  rw [← position_streamStarted hwf hprolog r] at hhas hcut
  rw [fillRows_of_cells r hcells]
  have hroom : (expand ts).length ≤ r.grid.length := hlt.le.trans ((cells_le_gridCap hprolog).trans hg.ge)
  rw [fillCells_cut hwf (coreOk_streamStarted e i r) rfl rfl hok hhas hcut hlt hroom]
  have hpos : position (tokensStored (recordX e i.toNat).toNat ts (decoding i (streamStarted e i.toNat r))) =
      8 * (recordBase e i.toNat + 2) := position_streamStarted hwf hprolog r
  obtain hin | hend : recordBase e i.toNat + 2 < e.cfg.bufLen ∨ recordBase e i.toNat + 2 = e.cfg.bufLen :=
    Nat.lt_or_eq_of_le hprolog.2.1
  · rw [exhausted_of_lt (by omega), atPosition, streamCut, if_pos hin,
      show (8 * e.cfg.bufLen + 7) / 8 = e.cfg.bufLen by omega, Nat.sub_self]
    rfl
  · have hptr : (tokensStored (recordX e i.toNat).toNat ts (decoding i (streamStarted e i.toNat r))).bytePtr.toNat =
        e.cfg.bufLen := (bytePtr_streamStarted hwf hprolog r).trans hend
    rw [exhausted_of_le (by omega), hptr, streamCut, if_neg hend.not_lt, ← hend]
    rfl

end

end Sys2Proof.Safety
end

section
/-! How a DECODE_MAP ends (R112): the stretches of the part before put together, one lemma for each way a record with a
prolog can be read. -/

namespace Sys2Proof.Safety

open Sys2Proof.Machine

section
variable {e : Env} {i : MapIndex} {ts : List Tok}

theorem bytePtr_cellsRead (hwf : e.cfg.wf) (hhas : StreamHas e (8 * (recordBase e i.toNat + 2)) (toksBits ts))
    (r : Smd) :
    (cellsRead e i.toNat ts r).bytePtr.toNat = recordEnd e i.toNat ts :=
  toNat_offsetOf ((recordEnd_le hhas).trans_lt hwf.1)

theorem finishDecode_inside {q : Smd} {epilog : Nat} (hptr : q.bytePtr.toNat = epilog)
    (h : epilog + 1 < e.cfg.bufLen) :
    finishDecode e q = (placePlayer e epilog (epilogRead e epilog q)).bind fun _ r => .ok .none (endDecode r) := by
  rw [finishDecode, readEpilog_inside hptr h, Res.bind_ok]

theorem finishDecode_cut {q : Smd} {epilog : Nat} (hptr : q.bytePtr.toNat = epilog) (hle : epilog ≤ e.cfg.bufLen)
    (h : e.cfg.bufLen ≤ epilog + 1) :
    finishDecode e q = .raised .bufferExhausted e.cfg.bufLen (epilogCut e epilog q) := by
  rw [finishDecode, readEpilog_cut hptr hle h, Res.bind_raised]

/-- The entry of the grid in which the player stands. -/
theorem grid_recordRead (r : Smd)
    (hm : Supplies ts ((recordX e i.toNat).toNat * (recordY e i.toNat).toNat))
    (hin : PlayerInside e i.toNat ts) :
    (recordRead e i.toNat ts r).grid[playerIndex e i.toNat ts]? = (expand ts)[playerIndex e i.toNat ts]? := by
  have hlt : playerIndex e i.toNat ts < (recordX e i.toNat).toNat * (recordY e i.toNat).toNat :=
    row_major_lt hin.1 hin.2
  have hlen := List.length_take_of_le hm.2.2
  show ((expand ts).take _ ++ _)[_]? = _
  rw [List.getElem?_append_left (by omega), List.getElem?_take_of_lt hlt]

variable (hwf : e.cfg.wf) (r : Smd)
include hwf

/-- A record that is whole is read, and the player's checks decide (R118, R119). -/
theorem decodeBody_of_streamOk (hg : r.grid.length = e.cfg.gridCap) (h : StreamOk e i.toNat ts) :
    decodeBody e i (startDecode i r) =
      (placePlayer e (recordEnd e i.toNat ts) (decoding i (recordRead e i.toNat ts r))).bind fun _ r =>
        .ok .none (endDecode r) := by
  obtain ⟨hprolog, hm, hhas, hepilog⟩ := h
  rw [decodeBody_of_prologOk hprolog, fillRows_of_supplies hwf hprolog r hg hm hhas, Res.bind_ok]
  exact finishDecode_inside (q := decoding i (cellsRead e i.toNat ts r)) (bytePtr_cellsRead hwf hhas r) hepilog

/-- The player of a whole record, inside its map, stands on one of its cells, and DECODE_MAP goes by that cell. -/
theorem decodeBody_of_playerInside (hg : r.grid.length = e.cfg.gridCap) (h : StreamOk e i.toNat ts)
    (hin : PlayerInside e i.toNat ts) :
    decodeBody e i (startDecode i r) =
      if (expand ts)[playerIndex e i.toNat ts]? = some .empty then
        .ok .none (endDecode { recordRead e i.toNat ts r with mapValid := true })
      else .raised .invalidPlayerPlacement (recordEnd e i.toNat ts) (decoding i (recordRead e i.toNat ts r)) := by
  obtain ⟨⟨-, -, hx, hy⟩, hm, -, -⟩ := id h
  have hlt : playerIndex e i.toNat ts < (expand ts).length := (row_major_lt hin.1 hin.2).trans_le hm.2.2
  have hget := List.getElem?_eq_getElem hlt
  have hcell := (grid_recordRead r hm hin).trans hget
  have hplace := placePlayer_inside (r := decoding i (recordRead e i.toNat ts r)) hx hy hin.1 hin.2 hcell
  rw [decodeBody_of_streamOk hwf r hg h, hplace]
  simp only [hget, Option.some_inj]
  split <;> rfl

end

end Sys2Proof.Safety

open Sys2Proof Sys2Proof.Machine Sys2Proof.Safety

/-- Settles O34: the player stands on an Empty cell of the grid that the loops have filled. -/
theorem decodeMapSealsTheMap : Obligations.DecodeMapSealsTheMap := by
  intro s i ts hwf hg h hin hempty
  rw [exec_decodeMap, decodeBody_of_playerInside hwf s.smd hg h hin, if_pos hempty]
  rfl

/-- Settles O36: the player stands on another cell of the grid that the loops have filled. -/
theorem decodeMapPlayerNotOnEmpty : Obligations.DecodeMapPlayerNotOnEmpty := by
  intro s i ts hwf hg h hin hoccupied
  apply exec_decodeMap_of_decoding_raised
  rw [decodeBody_of_playerInside hwf s.smd hg h hin, if_neg hoccupied]

/-- Settles O35: the record is read, and the check of the player's position raises. -/
theorem decodeMapPlayerOutside : Obligations.DecodeMapPlayerOutside := by
  intro s i ts hwf hg h hout
  apply exec_decodeMap_of_decoding_raised
  have hplace := placePlayer_outside (e := s.env) (r := decoding i (recordRead s.env i.toNat ts s.smd)) hout
  rw [decodeBody_of_streamOk hwf s.smd hg h, hplace, Res.bind_raised]

/-- Settles O39: the dimension check raises. -/
theorem decodeMapInvalidDimensions : Obligations.DecodeMapInvalidDimensions := by
  intro s i hentry hbase hdim
  exact exec_decodeMap_of_raised (decodeBody_of_prolog_raised hentry ((readProlog_inside hbase _).trans (if_pos hdim)))

/-- Settles O40: no cell step is made, and the epilog is read where the stream started, or is cut off. -/
theorem decodeMapZeroDimension : Obligations.DecodeMapZeroDimension := by
  intro s i hwf hprolog hzero
  have hptr : (decoding i (noCellsRead s.env i.toNat s.smd)).bytePtr.toNat = recordBase s.env i.toNat + 2 :=
    bytePtr_streamStarted hwf hprolog s.smd
  have hbody := decodeBody_of_prologOk hprolog s.smd
  rw [fillRows_of_zero hzero, Res.bind_ok] at hbody
  split
  · rename_i hin
    apply exec_decodeMap_of_decoding_raised
    have hout : ¬ ((s.env.buf.read (recordBase s.env i.toNat + 2)).toNat < (recordX s.env i.toNat).toNat ∧
        (s.env.buf.read (recordBase s.env i.toNat + 2 + 1)).toNat < (recordY s.env i.toNat).toNat) := by
      obtain hx | hy := hzero
      · simp [hx]
      · simp [hy]
    rw [hbody, finishDecode_inside hptr hin, placePlayer_outside hout, Res.bind_raised]
    rfl
  · rename_i hpast
    apply exec_decodeMap_of_decoding_raised
    rw [hbody, finishDecode_cut hptr (by have := hprolog.2.1; omega) (by omega)]
    rfl

/-- Settles O41: the loops run into the buffer's end. -/
theorem decodeMapBitstreamCut : Obligations.DecodeMapBitstreamCut := by
  intro s i ts hwf hg hprolog hok hlt hhas hcut
  apply exec_decodeMap_of_decoding_raised
  rw [decodeBody_of_prologOk hprolog, fillRows_of_cut hwf hprolog s.smd hg hok hlt hhas hcut, Res.bind_raised]

/-- Settles O42: the loops are whole, and the epilog is cut off. -/
theorem decodeMapEpilogCut : Obligations.DecodeMapEpilogCut := by
  intro s i ts hwf hg hprolog hm hhas hpast
  apply exec_decodeMap_of_decoding_raised
  rw [decodeBody_of_prologOk hprolog, fillRows_of_supplies hwf hprolog s.smd hg hm hhas, Res.bind_ok]
  exact finishDecode_cut (bytePtr_cellsRead hwf hhas s.smd) (recordEnd_le hhas) hpast
end

section
/-! Every DECODE_MAP, by cases on its configuration and index alone (R120, R124): it seals the Map of its record, or it
fails in one way from every SMD. -/

namespace Sys2Proof.Safety

open Sys2Proof.Machine

/-- From position `p` of the stream on, these tokens give `m` cells, or the buffer ends behind them before `m` cells. -/
def TokensUpTo (e : Env) (p m : Nat) (ts : List Tok) : Prop :=
  (∀ tok ∈ ts, tokOk tok) ∧ StreamHas e p (toksBits ts) ∧
  (Supplies ts m ∨
    (expand ts).length < m ∧ ∀ tok, tokOk tok → ¬ StreamHas e (p + (toksBits ts).length) (tokBits tok))

/-- Behind whole tokens there is one token more, or none is whole. -/
theorem exists_tokensUpTo_next {e : Env} {p : Nat} {ts : List Tok} (hok : ∀ tok ∈ ts, tokOk tok)
    (hhas : StreamHas e p (toksBits ts)) : ∃ us, TokensUpTo e p ((expand ts).length + 1) us := by
  by_cases hnext : ∃ tok : Tok, tokOk tok ∧ StreamHas e (p + (toksBits ts).length) (tokBits tok)
  · obtain ⟨tok, hn, htok⟩ := hnext
    refine ⟨ts ++ [tok], List.forall_mem_append.mpr ⟨hok, List.forall_mem_singleton.mpr hn⟩, ?_, .inl ?_⟩
    · rw [toksBits_append, toksBits_singleton]
      exact streamHas_append.mpr ⟨hhas, htok⟩
    · exact supplies_append_iff.mpr ⟨hok, hn, Nat.lt_succ_self _, Nat.add_le_add_left hn.1 _⟩
  · exact ⟨ts, hok, hhas, .inr ⟨Nat.lt_succ_self _, fun tok hn htok => hnext ⟨tok, hn, htok⟩⟩⟩

/-- Every stream gives some number of cells by whole tokens, or ends before it does (R62, R98). -/
theorem exists_tokensUpTo {e : Env} {p : Nat} (hp : p ≤ 8 * e.cfg.bufLen) (m : Nat) :
    ∃ ts, TokensUpTo e p (m + 1) ts := by
  induction m with
  | zero => exact exists_tokensUpTo_next (ts := []) nofun ⟨hp, rfl⟩
  | succ m ih =>
    obtain ⟨ts, hok, hhas, ⟨-, hlow, hhigh⟩ | ⟨hlt, hcut⟩⟩ := ih
    · obtain hmore | hall := Nat.lt_or_eq_of_le hhigh
      · exact ⟨ts, hok, hhas, .inl ⟨hok, by omega, hmore⟩⟩
      · exact hall ▸ exists_tokensUpTo_next hok hhas
    · exact ⟨ts, hok, hhas, .inr ⟨by omega, hcut⟩⟩

/-- The record of map i is these tokens, with its player inside the map on an Empty cell. -/
abbrev Seals (e : Env) (i : MapIndex) (ts : List Tok) : Prop :=
  StreamOk e i.toNat ts ∧ PlayerInside e i.toNat ts ∧ (expand ts)[playerIndex e i.toNat ts]? = some .empty

/-- From every SMD, DECODE_MAP of map i ends with one error, and with no Map. -/
def Fails (e : Env) (i : MapIndex) : Prop :=
  ∃ (kind : ErrKind) (a : Nat), kind ≠ .none ∧
    ∀ s : State, s.env = e → s.smd.grid.length = e.cfg.gridCap → ∃ q : Smd, q.mapValid = false ∧
      exec (.decodeMap (i.setWidth 32)) s = .next (s.put (decodeFailed kind i a q))

section
variable {e : Env} {i : MapIndex}

theorem fails_of_table_past (hi : i.toNat < e.cfg.mapCount)
    (h : e.cfg.bufLen ≤ e.cfg.tableBase + 2 * i.toNat + 1) : Fails e i := by
  refine ⟨.bufferExhausted, if e.cfg.bufLen ≤ e.cfg.tableBase + 2 * i.toNat then e.cfg.tableBase + 2 * i.toNat
    else e.cfg.tableBase + 2 * i.toNat + 1, by decide, ?_⟩
  rintro s rfl -
  exact ⟨_, rfl, (decodeMapTableOrPrologCut s i hi).1 h⟩

/-- A prolog that the buffer's end cuts off, or a size at its bound. -/
theorem fails_of_entry (hentry : EntryInBuffer e i.toNat) (h : ¬ PrologOk e i.toNat) : Fails e i := by
  obtain hx | hy | hin : e.cfg.bufLen ≤ recordBase e i.toNat ∨ e.cfg.bufLen = recordBase e i.toNat + 1 ∨
      recordBase e i.toNat + 1 < e.cfg.bufLen := by omega
  · refine ⟨.bufferExhausted, recordBase e i.toNat, by decide, ?_⟩
    rintro s rfl -
    exact ⟨_, rfl, (decodeMapTableOrPrologCut s i hentry.1).2.1 hentry.2 hx⟩
  · refine ⟨.bufferExhausted, recordBase e i.toNat + 1, by decide, ?_⟩
    rintro s rfl -
    exact ⟨_, rfl, (decodeMapTableOrPrologCut s i hentry.1).2.2 hentry.2 hy⟩
  · have hdim : e.cfg.maxX ≤ (recordX e i.toNat).toNat ∨ e.cfg.maxY ≤ (recordY e i.toNat).toNat := by
      by_contra hsizes
      rw [not_or, Nat.not_le, Nat.not_le] at hsizes
      exact h ⟨hentry, hin, hsizes⟩
    refine ⟨.invalidDimensions, recordBase e i.toNat, by decide, ?_⟩
    rintro s rfl -
    exact ⟨_, rfl, decodeMapInvalidDimensions s i hentry hin hdim⟩

theorem fails_of_not_prologOk (h : ¬ PrologOk e i.toNat) : Fails e i := by
  by_cases hi : i.toNat < e.cfg.mapCount
  · by_cases htable : e.cfg.tableBase + 2 * i.toNat + 1 < e.cfg.bufLen
    · exact fails_of_entry ⟨hi, htable⟩ h
    · exact fails_of_table_past hi (Nat.not_lt.mp htable)
  · refine ⟨.indexOutOfRange, e.cfg.tableBase + 2 * i.toNat, by decide, ?_⟩
    rintro s rfl -
    exact ⟨_, rfl, decodeMapIndexOutOfRange s i (Nat.not_lt.mp hi)⟩

variable (hwf : e.cfg.wf) (h : PrologOk e i.toNat)
include hwf h

/-- A zero dimension never gives a Map (R121). -/
theorem fails_of_zero (hzero : recordX e i.toNat = 0#8 ∨ recordY e i.toNat = 0#8) : Fails e i := by
  by_cases hin : recordBase e i.toNat + 3 < e.cfg.bufLen
  · refine ⟨.invalidPlayerPosition, recordBase e i.toNat + 2, by decide, ?_⟩
    rintro s rfl -
    exact ⟨_, rfl, (decodeMapZeroDimension s i hwf h hzero).trans (by rw [if_pos hin])⟩
  · refine ⟨.bufferExhausted, e.cfg.bufLen, by decide, ?_⟩
    rintro s rfl -
    exact ⟨_, rfl, (decodeMapZeroDimension s i hwf h hzero).trans (by rw [if_neg hin])⟩

/-- Behind a bitstream that is whole, DECODE_MAP seals, or the epilog's bytes or the player make it fail. -/
theorem seals_or_fails_of_supplies {ts : List Tok}
    (hm : Supplies ts ((recordX e i.toNat).toNat * (recordY e i.toNat).toNat))
    (hhas : StreamHas e (8 * (recordBase e i.toNat + 2)) (toksBits ts)) : Seals e i ts ∨ Fails e i := by
  by_cases hepilog : recordEnd e i.toNat ts + 1 < e.cfg.bufLen
  · have hstream : StreamOk e i.toNat ts := ⟨h, hm, hhas, hepilog⟩
    by_cases hin : PlayerInside e i.toNat ts
    · by_cases hempty : (expand ts)[playerIndex e i.toNat ts]? = some .empty
      · exact .inl ⟨hstream, hin, hempty⟩
      · refine .inr ⟨.invalidPlayerPlacement, recordEnd e i.toNat ts, by decide, ?_⟩
        rintro s rfl hg
        exact ⟨_, rfl, decodeMapPlayerNotOnEmpty s i ts hwf hg hstream hin hempty⟩
    · refine .inr ⟨.invalidPlayerPosition, recordEnd e i.toNat ts, by decide, ?_⟩
      rintro s rfl hg
      exact ⟨_, rfl, decodeMapPlayerOutside s i ts hwf hg hstream hin⟩
  · refine .inr ⟨.bufferExhausted, e.cfg.bufLen, by decide, ?_⟩
    rintro s rfl hg
    exact ⟨_, rfl, decodeMapEpilogCut s i ts hwf hg h hm hhas (Nat.not_lt.mp hepilog)⟩

theorem seals_or_fails_of_prologOk : (∃ ts, Seals e i ts) ∨ Fails e i := by
  by_cases hzero : recordX e i.toNat = 0#8 ∨ recordY e i.toNat = 0#8
  · exact .inr (fails_of_zero hwf h hzero)
  · rw [not_or] at hzero
    have hcells : 0 < (recordX e i.toNat).toNat * (recordY e i.toNat).toNat :=
      Nat.mul_pos (Nat.pos_of_ne_zero fun hx => hzero.1 (BitVec.eq_of_toNat_eq hx))
        (Nat.pos_of_ne_zero fun hy => hzero.2 (BitVec.eq_of_toNat_eq hy))
    obtain ⟨m, hm⟩ := Nat.exists_eq_add_one.mpr hcells
    obtain ⟨ts, hok, hhas, hsup | ⟨hlt, hcut⟩⟩ :=
      exists_tokensUpTo (p := 8 * (recordBase e i.toNat + 2)) (Nat.mul_le_mul_left 8 h.2.1) m
    · exact (seals_or_fails_of_supplies hwf h (hm ▸ hsup) hhas).imp_left fun hseals => ⟨ts, hseals⟩
    · refine .inr ⟨.bufferExhausted, e.cfg.bufLen, by decide, ?_⟩
      rintro s rfl hg
      exact ⟨_, rfl, decodeMapBitstreamCut s i ts hwf hg h hok (hm ▸ hlt) hhas hcut⟩

end

/-- The configuration and the index decide how a DECODE_MAP ends (R124, R126). -/
theorem seals_or_fails {e : Env} (hwf : e.cfg.wf) (i : MapIndex) : (∃ ts, Seals e i ts) ∨ Fails e i := by
  by_cases h : PrologOk e i.toNat
  · exact seals_or_fails_of_prologOk hwf h
  · exact .inr (fails_of_not_prologOk h)

/-- The cells of a sealed Map are the record's. -/
theorem sealed_cells {e : Env} {i : MapIndex} {ts : List Tok} (h : Seals e i ts) (r : Smd) :
    (decodeSealed (recordRead e i.toNat ts r)).grid.take ((recordX e i.toNat).toNat * (recordY e i.toNat).toNat) =
      (expand ts).take ((recordX e i.toNat).toNat * (recordY e i.toNat).toNat) := by
  obtain ⟨⟨-, ⟨-, -, hm⟩, -, -⟩, -, -⟩ := h
  exact List.take_left' (List.length_take_of_le hm)

end Sys2Proof.Safety

open Sys2Proof Sys2Proof.Machine Sys2Proof.Safety

/-- Settles O43: a DECODE_MAP seals the Map of its record, or it fails as every other of its index. -/
theorem decodeMapEndsSealedOrFailed : Obligations.DecodeMapEndsSealedOrFailed := by
  intro s i hwf hg
  obtain ⟨ts, hstream, hin, hempty⟩ | ⟨kind, a, hkind, hfails⟩ := seals_or_fails hwf i
  · exact ⟨_, decodeMapSealsTheMap s i ts hwf hg hstream hin hempty, rfl, rfl, .inl ⟨rfl, rfl, rfl⟩⟩
  · obtain ⟨q, hvalid, hexec⟩ := hfails s rfl hg
    exact ⟨_, hexec, rfl, rfl, .inr ⟨kind, a, hkind, rfl, hvalid, fun arg => if_pos hvalid⟩⟩

/-- Settles O44: the configuration and the index decide between a seal and a failure, and each tells its result. -/
theorem decodeMapIgnoresHistory : Obligations.DecodeMapIgnoresHistory := by
  intro s u i henv hwf hs hu
  obtain ⟨ts, hseals⟩ | ⟨kind, a, -, hfails⟩ := seals_or_fails hwf i
  · obtain ⟨hstream, hin, hempty⟩ := id hseals
    have hexec := decodeMapSealsTheMap s i ts hwf hs hstream hin hempty
    have hexec' := decodeMapSealsTheMap u i ts (henv ▸ hwf) hu (henv ▸ hstream) (henv ▸ hin) (henv ▸ hempty)
    rw [← henv] at hexec'
    refine ⟨_, _, hexec, hexec', rfl, rfl, fun _ => ⟨rfl, rfl, rfl, rfl, ?_⟩⟩
    exact (sealed_cells hseals s.smd).trans (sealed_cells hseals u.smd).symm
  · obtain ⟨q, hvalid, hexec⟩ := hfails s rfl hs
    obtain ⟨q', hvalid', hexec'⟩ := hfails u henv.symm (henv ▸ hu)
    refine ⟨_, _, hexec, hexec', rfl, hvalid.trans hvalid'.symm, fun hsealed => ?_⟩
    exact absurd (hvalid.symm.trans hsealed) (by decide)
end

section
/-! The control commands (R131 to R134): each one's meaning as an equation, the fields of READ_STATUS's words, and the
arguments that are no map index. -/

namespace Sys2Proof.Machine

/-! ### RESET and READ_STATUS, which do not branch -/

theorem exec_reset (arg : BitVec 32) (s : State) :
    exec (.reset arg) s =
      .next (s.put (respond .none { Smd.powerOn s.env.cfg with refusalMark := s.smd.refusalMark })) := rfl

theorem exec_readStatus (arg : BitVec 32) (s : State) :
    exec (.readStatus arg) s =
      .next (s.put { s.smd with
        response := some (.ok (.status (statusW0 s.smd) (statusW1 s.smd) s.smd.errOffset s.smd.bytePtr)) }) := rfl

/-! ### The fields of W0 and W1 (R31)

The registers of W0 stand in it as a row of appended fields, 17 bits in all. -/

/-- Above its own width a zero-extended word is 0. -/
theorem extractLsb'_setWidth_above {w n start len : Nat} (x : BitVec w) (h : w ≤ start) :
    (x.setWidth n).extractLsb' start len = 0#len := by
  ext k hk
  simp [BitVec.getLsbD_of_ge x (start + k) (by omega)]

theorem statusW0_fields (r : Smd) :
    (statusW0 r).extractLsb' 0 1 = BitVec.ofBool r.err ∧ (statusW0 r).extractLsb' 1 3 = r.errKind.code ∧
    (statusW0 r).extractLsb' 4 1 = BitVec.ofBool r.ready ∧ (statusW0 r).extractLsb' 5 1 = BitVec.ofBool r.mapValid ∧
    (statusW0 r).extractLsb' 6 4 = r.bitsLeft ∧ (statusW0 r).extractLsb' 10 4 = r.pending ∧
    (statusW0 r).extractLsb' 14 3 = cachedCode r.cached := by
  refine ⟨?_, ?_, ?_, ?_, ?_, ?_, ?_⟩
  all_goals
    rw [statusW0, BitVec.extractLsb'_setWidth_of_le (by decide)]
    simp only [BitVec.extractLsb'_append_eq_of_le, Nat.reduceLeDiff, Nat.reduceSub, BitVec.extractLsb'_append_eq_right,
      BitVec.extractLsb'_eq_self]

theorem statusW0_reserved (r : Smd) : (statusW0 r).extractLsb' 17 15 = 0#15 :=
  extractLsb'_setWidth_above _ (by decide)

theorem statusW1_errMap (r : Smd) : (statusW1 r).extractLsb' 0 16 = r.errMap :=
  (BitVec.extractLsb'_setWidth_of_le (by decide)).trans BitVec.extractLsb'_eq_self

theorem statusW1_reserved (r : Smd) : (statusW1 r).extractLsb' 16 16 = 0#16 :=
  extractLsb'_setWidth_above _ (by decide)

/-! ### READ_MAP, with and without a sealed Map (R133) -/

theorem exec_readMap_sealed {s : State} (hvalid : s.smd.mapValid = true)
    (hstore : s.smd.sizeX.toNat * s.smd.sizeY.toNat ≤ s.smd.grid.length) (arg : BitVec 32) :
    exec (.readMap arg) s = .next (s.put { s.smd with
      response := some (.ok (.map s.smd.sizeX s.smd.sizeY
        (s.smd.grid.take (s.smd.sizeX.toNat * s.smd.sizeY.toNat)) s.smd.manX s.smd.manY)) }) := by
  rw [exec, execReadMap, if_neg (by simp [hvalid]), gridCells_inside hstore]
  rfl

theorem exec_readMap_noMap {s : State} (hvalid : s.smd.mapValid = false) (arg : BitVec 32) :
    exec (.readMap arg) s = .next (s.put (refuse .noMap s.smd)) := by
  rw [exec, execReadMap, if_pos hvalid]

/-! ### Arguments over 16 bits (R134) -/

theorem mapIndexOperand_wide {arg : BitVec 32} (h : 0x10000 ≤ arg.toNat) : mapIndexOperand arg = none := by
  have hhigh : arg.extractLsb' 16 16 ≠ 0#16 := by
    intro hzero
    have hdiv : arg.toNat / 2 ^ 16 % 2 ^ 16 = 0 := by
      simpa [Nat.shiftRight_eq_div_pow] using congrArg BitVec.toNat hzero
    have hlt := arg.isLt
    omega
  rw [mapIndexOperand, if_neg hhigh]

theorem exec_resolve_wide {arg : BitVec 32} (h : 0x10000 ≤ arg.toNat) (s : State) :
    exec (.resolve arg) s = .next (s.put (refuse .indexTooWide s.smd)) := by
  simp only [exec, execResolve, mapIndexOperand_wide h]

theorem exec_decodeMap_wide {arg : BitVec 32} (h : 0x10000 ≤ arg.toNat) (s : State) :
    exec (.decodeMap arg) s = .next (s.put (refuse .indexTooWide s.smd)) := by
  simp only [exec, execDecodeMap, mapIndexOperand_wide h]

end Sys2Proof.Machine

open Sys2Proof Sys2Proof.Machine

/-- Settles O13: the answered words are `statusWords`, whose fields are read off one by one. -/
theorem readStatusReportsFields : Obligations.ReadStatusReportsFields := by
  intro s arg
  obtain ⟨herr, hkind, hready, hvalid, hbits, hpending, hcached⟩ := statusW0_fields s.smd
  refine ⟨_, _, _, _, exec_readStatus arg s, herr, hkind.trans ?_, hready, hvalid, hbits, hpending, hcached.trans ?_,
    statusW0_reserved s.smd, statusW1_errMap s.smd, statusW1_reserved s.smd, rfl, rfl⟩
  · cases s.smd.errKind <;> rfl
  · cases s.smd.cached with
    | none => rfl
    | some c => cases c <;> rfl

/-- Settles O11: RESET's registers are those of power-on. -/
theorem resetCommandClearsRegisters : Obligations.ResetCommandClearsRegisters := by
  intro s arg
  refine ⟨_, exec_reset arg s, rfl, ?_⟩
  simp [Smd.powerOn]

/-- Settles O14: the sealed Map's cells stand in the grid store, and without one READ_MAP is refused. -/
theorem readMapAnswersSealedMap : Obligations.ReadMapAnswersSealedMap := fun _ arg =>
  ⟨fun hvalid hstore => exec_readMap_sealed hvalid hstore arg, fun hvalid => exec_readMap_noMap hvalid arg⟩

/-- Settles O15: a reserved opcode is refused as such, and an argument over 16 bits is no map index. -/
theorem reservedAndWideAreRefused : Obligations.ReservedAndWideAreRefused := by
  intro s arg
  constructor
  · intro i hi
    simp only [List.mem_cons, List.not_mem_nil, or_false] at hi
    obtain rfl | rfl | rfl | rfl | rfl | rfl | rfl := hi <;> rfl
  · intro hwide i hi
    simp only [List.mem_cons, List.not_mem_nil, or_false] at hi
    obtain rfl | rfl := hi
    · exact exec_resolve_wide hwide s
    · exact exec_decodeMap_wide hwide s
end

section
/-! No step stops the machine in a state that meets its invariant (R124, R150): each stretch of pseudocode completes,
with a value or with a raise, and so does every command and every symbol. -/

namespace Sys2Proof.Machine

open Sys2Proof.Safety

/-! ### Stretches of pseudocode that complete -/

/-- The stretch ends well or raises, and does not stop the model. -/
def Res.Completes {α : Type} (x : Res α) : Prop := ∀ f, x ≠ .fault f

@[simp] theorem completes_ok {α : Type} (a : α) (r : Smd) : (Res.ok a r).Completes := nofun

@[simp] theorem completes_raised {α : Type} (k : ErrKind) (o : Nat) (r : Smd) :
    (Res.raised k o r : Res α).Completes := nofun

theorem Res.Completes.bind {α β : Type} {x : Res α} {f : α → Smd → Res β} (hx : x.Completes)
    (hf : ∀ a r, (f a r).Completes) : (x.bind f).Completes := by
  cases x with
  | ok a r => exact hf a r
  | raised k o r => exact completes_raised k o r
  | fault g => exact absurd rfl (hx g)

theorem Res.Completes.map {α β : Type} {x : Res α} (hx : x.Completes) (f : α → β) : (x.map f).Completes :=
  hx.bind fun _ _ => completes_ok _ _

theorem exhausted_completes {α : Type} (e : Env) (r : Smd) : (exhausted e r : Res α).Completes := by
  unfold exhausted
  split <;> exact completes_raised _ _ _

/-! ### Commands and symbols whose work completes -/

/-- The outcome is a next state, which differs from `s` in the acting SMD at most. -/
def Proceeds (s : State) (o : Host.Outcome State Fault Refusal) : Prop := ∃ q, o = .next (s.put q)

theorem Proceeds.next {s : State} {o : Host.Outcome State Fault Refusal} (h : Proceeds s o) : ∃ t, o = .next t :=
  h.imp' s.put fun _ hq => hq

theorem finish_proceeds (c : Issuer) (s : State) {x : Res Data} (hx : x.Completes) : Proceeds s (finish c s x) := by
  cases x with
  | ok d r => exact ⟨_, rfl⟩
  | raised k o r => exact ⟨_, rfl⟩
  | fault f => exact absurd rfl (hx f)

theorem finishSymbol_proceeds (s : State) {x : Res Unit} (hx : x.Completes) : Proceeds s (finishSymbol s x) := by
  cases x with
  | ok d r => exact ⟨_, rfl⟩
  | raised k o r => exact ⟨_, rfl⟩
  | fault f => exact absurd rfl (hx f)

/-- A gate that does not open answers, too (R80). -/
theorem gated_proceeds (s : State) {x : Res Data} (hx : x.Completes) : Proceeds s (gated s x) := by
  cases hready : s.smd.ready with
  | false => exact ⟨_, gated_not_ready hready x⟩
  | true =>
    cases herr : s.smd.err with
    | true => exact ⟨_, gated_err hready herr x⟩
    | false => exact gated_open hready herr x ▸ finish_proceeds .primitive s hx

/-! ### RESOLVE and DECODE_MAP of every argument -/

/-- An argument is over 16 bits, or a map index (R72). -/
theorem wide_or_mapIndex (arg : BitVec 32) : 0x10000 ≤ arg.toNat ∨ ∃ i : MapIndex, arg = i.setWidth 32 := by
  by_cases hwide : 0x10000 ≤ arg.toNat
  · exact .inl hwide
  · refine .inr ⟨arg.setWidth 16, BitVec.eq_of_toNat_eq ?_⟩
    simp only [BitVec.toNat_setWidth]
    omega

theorem exec_resolve_proceeds (arg : BitVec 32) (s : State) : Proceeds s (exec (.resolve arg) s) := by
  obtain hwide | ⟨i, rfl⟩ := wide_or_mapIndex arg
  · exact ⟨_, exec_resolve_wide hwide s⟩
  · obtain ⟨answer, h, -⟩ := resolveIsPureLookup s s i rfl
    exact ⟨_, h⟩

end Sys2Proof.Machine

namespace Sys2Proof.Safety

open Sys2Proof.Machine

/-! ### The core's stretches, under R24 -/

/-- A pending run has a cell (R24). -/
theorem continueRun_completes {e : Env} {r : Smd} (hcore : CoreOk e r) (hp : 0#4 < r.pending) :
    (continueRun r).Completes := by
  obtain ⟨hcached, -, h8, -⟩ := hcore
  obtain ⟨c, hc⟩ := Option.ne_none_iff_exists'.mp (hcached hp)
  simp [continueRun_pending hc h8]

theorem readByteBody_completes (e : Env) (r : Smd) : (readByteBody e r).Completes := by
  by_cases h : r.bytePtr.toNat < e.cfg.bufLen
  · simp [readByteBody_inside h]
  · simp [readByteBody_past (Nat.not_lt.mp h)]

section
variable {e : Env} {r : Smd} (hcore : CoreOk e r) (hwf : e.cfg.wf)
include hcore hwf

theorem fetchBit_completes : (fetchBit e r).Completes := by
  by_cases hp : position r < 8 * e.cfg.bufLen
  · simp [fetchBit_stream hcore hwf hp]
  · simp [fetchBit_end hcore (Nat.not_lt.mp hp)]

theorem skipBits_completes {k : Nat} (hk : k ≠ 0) : (skipBits e k r).Completes := by
  by_cases hp : position r + k ≤ 8 * e.cfg.bufLen
  · simp [skipBits_stream hcore hwf hp]
  · simp [skipBits_cut hcore hwf hk (Nat.not_le.mp hp), exhausted_completes]

theorem readCounter_map_completes {β : Type} (f : Nat → β) : ((readCounter e r).map f).Completes := by
  by_cases h : ∃ n, (1 ≤ n ∧ n ≤ 9) ∧ StreamHas e (position r) (counterBits n)
  · obtain ⟨n, hn, hhas⟩ := h
    rw [readCounter_stream hcore hwf hn hhas]
    exact (completes_ok _ _).map f
  · rw [Res.map, readCounter_bind_cut hcore hwf fun n hn hhas => h ⟨n, hn, hhas⟩]
    exact exhausted_completes e r

theorem readCellCode_map_completes {β : Type} (f : Cell → β) : ((readCellCode e r).map f).Completes := by
  by_cases h : ∃ c, StreamHas e (position r) (cellBits c)
  · obtain ⟨c, hhas⟩ := h
    rw [readCellCode_stream hcore hwf hhas]
    exact (completes_ok _ _).map f
  · rw [Res.map, readCellCode_bind_cut hcore hwf fun c hhas => h ⟨c, hhas⟩]
    exact exhausted_completes e r

theorem freshToken_completes : (freshToken e r).Completes := by
  by_cases h : ∃ tok, tokOk tok ∧ StreamHas e (position r) (tokBits tok)
  · obtain ⟨tok, hn, hhas⟩ := h
    simp [freshToken_stream hcore hwf hn hhas]
  · simp [freshToken_cut hcore hwf fun tok hn hhas => h ⟨tok, hn, hhas⟩, exhausted_completes]

theorem cellStep_completes : (cellStep e r).Completes := by
  unfold cellStep
  split
  · exact continueRun_completes hcore ‹_›
  · exact freshToken_completes hcore hwf

theorem primitiveBody_completes {x : Res Data} (hx : PrimitiveBody e r x) : x.Completes := by
  cases hx with
  | nextBit => exact (fetchBit_completes hcore hwf).map _
  | nextCell => exact (cellStep_completes hcore hwf).map _
  | readByte => exact (readByteBody_completes e r).map _

end

/-! ### Every instruction of a step, under the SMD's invariant -/

/-- A sealed Map's cells are in the grid store (R27, R29). -/
theorem exec_readMap_proceeds {s : State} (hok : SmdOk s.env s.smd) (arg : BitVec 32) :
    Proceeds s (exec (.readMap arg) s) := by
  obtain ⟨-, hmap, -, hgrid, -, -⟩ := hok
  cases hvalid : s.smd.mapValid with
  | false => exact ⟨_, exec_readMap_noMap hvalid arg⟩
  | true =>
    obtain ⟨-, hx, -, hy, -, -⟩ := hmap hvalid
    have hstore : s.smd.sizeX.toNat * s.smd.sizeY.toNat ≤ s.smd.grid.length :=
      hgrid ▸ Nat.mul_le_mul (Nat.le_sub_one_of_lt hx) (Nat.le_sub_one_of_lt hy)
    exact ⟨_, exec_readMap_sealed hvalid hstore arg⟩

section
variable {s : State} (hwf : s.env.cfg.wf) (hok : SmdOk s.env s.smd)
include hwf hok

theorem exec_decodeMap_proceeds (arg : BitVec 32) : Proceeds s (exec (.decodeMap arg) s) := by
  obtain hwide | ⟨i, rfl⟩ := wide_or_mapIndex arg
  · exact ⟨_, exec_decodeMap_wide hwide s⟩
  · obtain ⟨-, -, -, hgrid, -, -⟩ := hok
    obtain ⟨t, h, -⟩ := decodeMapEndsSealedOrFailed s i hwf hgrid
    obtain ⟨q, rfl, -⟩ := exec_effect h
    exact ⟨q, h⟩

theorem exec_command_proceeds {i : Instr} {w : BitVec 36} (hi : encode i = .command w) : Proceeds s (exec i s) := by
  have hprim {x : Res Data} (hx : PrimitiveBody s.env s.smd x) : Proceeds s (gated s x) :=
    gated_proceeds s (primitiveBody_completes hok.1 hwf hx)
  cases i with
  | nextBit arg => exact hprim .nextBit
  | nextCell arg => exact hprim .nextCell
  | readByte arg => exact hprim .readByte
  | resolve arg => exact exec_resolve_proceeds arg s
  | decodeMap arg => exact exec_decodeMap_proceeds hwf hok arg
  | readMap arg => exact exec_readMap_proceeds hok arg
  | reset | init | readStatus | reserved9 | reservedA | reservedB | reservedC | reservedD | reservedE | reservedF =>
    exact ⟨_, rfl⟩
  | _ => cases hi

/-- The counter that stands next is taken, and one that the buffer's end cuts raises (R91, R98). -/
theorem step_counter_proceeds (htok : s.smd.token = .counter) : Proceeds s (step s) := by
  simp only [step, htok]
  cases hfetch : fetchCounter s with
  | ok i =>
    obtain ⟨code, hcode, -⟩ := fetchCounter_eq_ok_iff.mp hfetch
    obtain ⟨n, -, rfl, hexec⟩ := exec_of_encode_counter hcode
    have hlen := length_counterBits n
    simp only [hexec]
    exact finishSymbol_proceeds s ((skipBits_completes hok.1 hwf (by omega)).bind fun _ _ => completes_ok _ _)
  | error x => exact finishSymbol_proceeds s (readCounter_map_completes hok.1 hwf _)

/-- The cell code that stands next after a counter is taken, and one that the buffer's end cuts raises (R94, R98). -/
theorem step_cellCode_proceeds {n : Nat} (htok : s.smd.token = .code n) : Proceeds s (step s) := by
  simp only [step, htok]
  cases hfetch : fetchCellCode s with
  | ok i =>
    obtain ⟨code, hcode, -⟩ := fetchCellCode_eq_ok_iff.mp hfetch
    obtain ⟨c, rfl, hexec⟩ := exec_of_encode_cellCode hcode
    have hlen := length_cellBits c
    simp only [hexec, takeCellCode, htok]
    exact finishSymbol_proceeds s ((skipBits_completes hok.1 hwf (by omega)).bind fun _ _ => completes_ok _ _)
  | error x => exact finishSymbol_proceeds s (readCellCode_map_completes hok.1 hwf _)

end

end Sys2Proof.Safety

open Sys2Proof Sys2Proof.Machine Sys2Proof.Safety

/-- Settles O6: no symbol is due, and the host's queue is empty. -/
theorem idleKeepsEveryRegister : Obligations.IdleKeepsEveryRegister := by
  intro s htok hhost
  simp only [step, htok, hhost]

/-- Settles O50: inside a token the next symbol is taken or cut, and between commands the oldest command completes in
the SMD that it moves the focus to. -/
theorem stepNeverStops : Obligations.StepNeverStops := by
  rintro s ⟨hwf, -, hsmd⟩ hready
  have hok : SmdOk s.env s.smd := hsmd _ (smd_mem_all s)
  cases htok : s.smd.token with
  | counter => exact (step_counter_proceeds hwf hok htok).next
  | code n => exact (step_cellCode_proceeds hwf hok htok).next
  | idle =>
    cases hhost : s.host with
    | nil => exact ⟨s, idleKeepsEveryRegister s htok hhost⟩
    | cons c rest =>
      have hlt : c.smdNo < s.all.length := hready c (by rw [hhost]; rfl)
      obtain ⟨u, hall, -, henv, -, hstep⟩ := stepRunsIssuedCommand s c rest htok hhost hlt
      obtain ⟨w, hi⟩ := encode_decodeCommand c.cmd c.arg
      have hu : SmdOk u.env u.smd := henv ▸ hsmd _ (hall ▸ smd_mem_all u)
      exact hstep ▸ (exec_command_proceeds (henv ▸ hwf) hu hi).next
end

section
/-! What no instruction clears, and what an error freezes (R143, R144, R150): the refusal mark, and every register until
RESET, INIT or DECODE_MAP. -/

namespace Sys2Proof.Machine

open Sys2Proof.Safety

/-! ### DECODE_MAP keeps the refusal mark, in states outside the machine's invariant too -/

/-- The refusal mark of R150 is set. -/
def Marked (r : Smd) : Prop := r.refusalMark = true

theorem Res.Leaves.andThen {α β : Type} {P : Smd → Prop} {x : Res α} {f : α → Smd → Res β} (hx : x.Leaves P)
    (hf : ∀ a r, P r → (f a r).Leaves P) : (x.bind f).Leaves P := hx.bind (fun _ h => h) hf

theorem Res.Ends.leaves {α : Type} {Q : α → Smd → Prop} {R P : Smd → Prop} {x : Res α} (hx : x.Ends Q R)
    (hQ : ∀ a r, Q a r → P r) (hR : ∀ r, R r → P r) : x.Leaves P := by
  cases x with
  | ok a r => exact hQ a r hx
  | raised k o r => exact hR r hx.2
  | fault f => trivial

/-- The refusal mark is no core register. -/
theorem Res.Leaves.marked {α : Type} {r : Smd} {x : Res α} (hx : x.Leaves (CoreOnly r)) (h : Marked r) :
    x.Leaves Marked := hx.mono fun _ hq => (congrArg Smd.refusalMark hq).trans h

section
variable {e : Env} {r : Smd} (h : Marked r)
include h

theorem readProlog_marked (base : Nat) : (readProlog e base r).Leaves Marked := by
  unfold readProlog
  refine (memRead_leaves h).andThen fun x p hp => ?_
  refine (memRead_leaves (r := { p with sizeX := x }) hp).andThen fun y q hq => ?_
  dsimp only
  split <;> exact hq

theorem gridWrite_marked (k : Nat) (c : Cell) : (gridWrite k c r).Leaves Marked := by
  unfold gridWrite
  split
  · exact h
  · trivial

theorem fillColumns_marked (row n col : Nat) : (fillColumns e row n col r).Leaves Marked := by
  induction n generalizing col r with
  | zero => exact h
  | succ n ih =>
    refine ((cellStep_coreOnly e { r with col := byteOf col }).marked h).andThen fun c _ hp => ?_
    exact (gridWrite_marked hp _ c).andThen fun _ _ hq => ih hq (col + 1)

theorem fillRows_marked (n row : Nat) : (fillRows e n row r).Leaves Marked := by
  induction n generalizing row r with
  | zero => exact h
  | succ n ih =>
    exact (fillColumns_marked (r := { r with row := byteOf row }) h row _ 0).andThen fun _ _ hp => ih hp (row + 1)

theorem readEpilog_marked : (readEpilog e r).Leaves Marked := by
  unfold readEpilog
  refine (memRead_leaves h).andThen fun x p hp => ?_
  exact (memRead_leaves (r := { p with manX := x }) hp).andThen fun _ _ hq => hq

theorem placePlayer_marked (base : Nat) : (placePlayer e base r).Leaves Marked := by
  unfold placePlayer
  split
  · exact h
  · have hread : (gridRead (r.manY.toNat * r.sizeX.toNat + r.manX.toNat) r).Leaves Marked :=
      (gridRead_ends _ r).leaves (fun _ _ hq => hq.1 ▸ h) fun _ => False.elim
    refine hread.andThen fun c q hq => ?_
    split <;> exact hq

theorem decodeBody_marked (i : MapIndex) : (decodeBody e i r).Leaves Marked := by
  unfold decodeBody
  refine (resolveOffset_leaves h).andThen fun base _ hp => (readProlog_marked hp base).andThen fun _ q hq => ?_
  refine (fillRows_marked (r := startCore _ q) hq _ 0).andThen fun _ _ hp => ?_
  refine (readEpilog_marked hp).andThen fun epilog _ hp => ?_
  exact (placePlayer_marked hp epilog).andThen fun _ _ hp => hp

end

/-- Every effect keeps the refusal mark: RESET writes it back, and a refusal sets it. -/
theorem marked_of_effect {e : Env} {r q : Smd} {i : Instr} (hr : Marked r) (h : Effect e r i q) : Marked q := by
  have hskip (k : Nat) := (skipBits_coreOnly e k r).marked hr
  cases h with
  | reset | init | answered => exact hr
  | refused i why => exact refuse_refusalMark why r
  | decodeMap hc =>
    exact hc.of_leaves (P' := Marked) (decodeBody_marked (r := startDecode _ r) hr _) (fun _ _ h => h) fun _ _ _ h => h
  | primitive hx hc =>
    exact hc.of_leaves (P' := Marked) ((primitiveBody_coreOnly hx).marked hr) (fun _ _ h => h) fun _ _ _ h => h
  | counter _ _ hs | cellCode _ _ _ hs => exact ((hskip _).of_ok hs :)
  | symbolCut hs => exact ((hskip _).of_raised hs :)

/-! ### Commands that write no register -/

/-- Only the response and the refusal mark, which are no registers, differ from `r`. -/
def AnswerOnly (r q : Smd) : Prop := q = { r with response := q.response, refusalMark := q.refusalMark }

/-- While `ERR = 1` a primitive is refused or repeats the error (R80, R143). -/
theorem gated_answerOnly {s t : State} {x : Res Data} (herr : s.smd.err = true) (h : gated s x = .next t) :
    AnswerOnly s.smd t.smd := by
  obtain ⟨-, rfl⟩ | ⟨-, -, rfl⟩ | ⟨-, hclear, -⟩ := gated_cases h
  · rfl
  · rfl
  · cases herr.symm.trans hclear

theorem exec_resolve_answerOnly {arg : BitVec 32} {s t : State} (h : exec (.resolve arg) s = .next t) :
    AnswerOnly s.smd t.smd := by
  obtain hwide | ⟨i, rfl⟩ := wide_or_mapIndex arg
  · obtain rfl := Host.Outcome.next.inj ((exec_resolve_wide hwide s).symm.trans h)
    rfl
  · obtain ⟨answer, hanswer, -⟩ := resolveIsPureLookup s s i rfl
    obtain rfl := Host.Outcome.next.inj (hanswer.symm.trans h)
    rfl

/-- READ_MAP reads the grid store, or stops where that is too short (R133). -/
theorem exec_readMap_answerOnly {arg : BitVec 32} {s t : State} (h : exec (.readMap arg) s = .next t) :
    AnswerOnly s.smd t.smd := by
  simp only [exec, execReadMap, gridCells] at h
  split at h
  · obtain rfl := Host.Outcome.next.inj h
    rfl
  · split at h
    · obtain rfl := Host.Outcome.next.inj h
      rfl
    · cases h

end Sys2Proof.Machine

open Sys2Proof Sys2Proof.Machine Sys2Proof.Safety

/-- Settles O16: every effect of an instruction keeps the mark. -/
theorem refusalMarkStays : Obligations.RefusalMarkStays := by
  intro i s t h hmark
  obtain ⟨q, rfl, hq⟩ := exec_effect h
  exact marked_of_effect hmark hq

/-- Settles O47: the gate does not let a primitive work while `ERR = 1`, and the other commands only answer. -/
theorem firstErrorStaysRecorded : Obligations.FirstErrorStaysRecorded := by
  intro i w s t hi h herr hreset hinit hdecode
  cases i with
  | reset arg => exact absurd rfl (hreset arg)
  | init start => exact absurd rfl (hinit start)
  | decodeMap arg => exact absurd rfl (hdecode arg)
  | nextBit | nextCell | readByte => exact gated_answerOnly herr h
  | resolve => exact exec_resolve_answerOnly h
  | readMap => exact exec_readMap_answerOnly h
  | readStatus | reserved9 | reservedA | reservedB | reservedC | reservedD | reservedE | reservedF =>
    obtain rfl := Host.Outcome.next.inj h
    rfl
  | _ => cases hi
end

section
/-! Power-on and the protocol of primitives (R160, R164): READ_STATUS of the reset state, and INIT, READ_BYTEs and
NEXT_CELLs over a record that DECODE_MAP seals. -/

namespace Sys2Proof.Safety

open Sys2Proof.Machine

section
variable {e : Env} (hwf : e.cfg.wf)
include hwf

/-! ### READ_BYTEs from one position of the stream (R84) -/

/-- READ_BYTE answers the next whole byte, and the cursor stands behind it. -/
theorem DeliversFrom.readByte {q : Nat} {s : State} (h : DeliversFrom e q s) {a : Nat} (hq : (q + 7) / 8 = a)
    (ha : a < e.cfg.bufLen) (arg : BitVec 32) :
    ∃ t, exec (.readByte arg) s = .next t ∧ t.smd.response = some (.ok (.byte (e.buf.read a))) ∧
      DeliversFrom e (8 * (a + 1)) t := by
  obtain ⟨rfl, hr, he, hcore, -, hptr⟩ := h
  have hlen := hwf.1
  have hptr : s.smd.bytePtr.toNat = a := hptr.trans hq
  have hnext : (s.smd.bytePtr + 1#32).toNat = a + 1 := by bv_omega
  refine ⟨_, (readByteAnswersByteAtCursor s arg hr he).1 (hptr.trans_lt ha), ?_, rfl, hr, he, ?_, ?_, ?_⟩
  · rw [← hptr]
    rfl
  · exact coreOk_of_drained rfl hcore.1 hcore.2.2.1
  · exact congrArg (8 * ·) hnext
  · exact hnext.trans (by omega)

/-- Two READ_BYTEs in a row answer the next two bytes, as a host reads a prolog or an epilog (R164). -/
theorem DeliversFrom.readTwoBytes {q : Nat} {s : State} (h : DeliversFrom e q s) {a : Nat} (hq : (q + 7) / 8 = a)
    (ha : a + 1 < e.cfg.bufLen) :
    ∃ t u, exec (.readByte 0#32) s = .next t ∧ t.smd.response = some (.ok (.byte (e.buf.read a))) ∧
      exec (.readByte 0#32) t = .next u ∧ u.smd.response = some (.ok (.byte (e.buf.read (a + 1)))) ∧ u.env = e := by
  obtain ⟨t, hexec, hresp, ht⟩ := h.readByte hwf hq (by omega) 0#32
  obtain ⟨u, hexec', hresp', hu⟩ := ht.readByte hwf (a := a + 1) (by omega) ha 0#32
  exact ⟨t, u, hexec, hresp, hexec', hresp', hu.env⟩

/-! ### NEXT_CELLs latch no byte early (R85)

R24 alone allows a latched byte of which no bit is read; READ_BYTE would skip it. -/

/-- A NEXT_CELL that answers a cell leaves no byte latched before its first bit is needed. -/
theorem DeliversFrom.nextCell {q : Nat} {s t : State} {c : Cell} (h : DeliversFrom e q s)
    (hexec : exec (.nextCell 0#32) s = .next t) (hresp : t.smd.response = some (.ok (.cell c))) :
    ∃ p, DeliversFrom e p t := by
  obtain ⟨rfl, hr, he, hcore, rfl, hptr⟩ := h
  by_cases hp : s.smd.pending = 0#4
  · by_cases hwhole : ∃ tok, tokOk tok ∧ StreamHas s.env (position s.smd) (tokBits tok)
    · obtain ⟨tok, hn, hhas⟩ := hwhole
      have hlen := hwf.1
      have hend := hhas.1
      rw [nextCellReadsFreshToken s 0#32 tok hr he hp hcore hwf hn hhas] at hexec
      obtain rfl := Host.Outcome.next.inj hexec
      exact ⟨_, rfl, hr, he, coreOk_storeToken (coreOk_atPosition hend hwf hcore) hn tok.2,
        position_atPosition (r := s.smd) hend hwf, toNat_offsetOf (by omega)⟩
    · have hcut := nextCellCutByBufferEnd s 0#32 hr he hp hcore hwf fun tok hn hhas => hwhole ⟨tok, hn, hhas⟩
      obtain hlt | hge := Nat.lt_or_ge (position s.smd) (8 * s.env.cfg.bufLen)
      · obtain rfl := Host.Outcome.next.inj ((hcut.1 hlt).symm.trans hexec)
        cases hresp
      · obtain rfl := Host.Outcome.next.inj ((hcut.2 hge).symm.trans hexec)
        cases hresp
  · have hpos : 0#4 < s.smd.pending := by bv_omega
    have h8 : s.smd.pending ≤ 8#4 := hcore.2.2.1
    have hrest : s.smd.pending - 1#4 ≤ 8#4 := by bv_omega
    obtain ⟨d, hd⟩ := Option.ne_none_iff_exists'.mp (hcore.1 hpos)
    rw [nextCellContinuesRun s 0#32 d hr he hpos h8 hd] at hexec
    obtain rfl := Host.Outcome.next.inj hexec
    exact ⟨_, rfl, hr, he, coreOk_setRun (c := s.smd.cached) hcore hrest (hcore.1 hpos), rfl, hptr⟩

theorem DeliversFrom.nextCells {m q : Nat} {s t : State} {cells : List Cell} (h : DeliversFrom e q s)
    (hcells : nextCells m s = some (cells, t)) : ∃ p, DeliversFrom e p t := by
  induction m generalizing q s cells with
  | zero =>
    cases hcells
    exact ⟨q, h⟩
  | succ m ih =>
    unfold Safety.nextCells at hcells
    split at hcells
    case h_1 u hexec =>
      split at hcells
      case h_1 c hresp =>
        obtain ⟨⟨rest, w⟩, hrest, hpair⟩ := Option.map_eq_some_iff.mp hcells
        cases hpair
        obtain ⟨p, hu⟩ := h.nextCell hwf hexec hresp
        exact ih hu hrest
      case h_2 => cases hcells
    all_goals cases hcells

end

/-- Behind an INIT, NEXT_CELLs answer the cells of the tokens there, and leave the cursor behind the tokens' bits. -/
theorem nextCells_after_init {s t : State} {start : BitVec 32} (hwf : s.env.cfg.wf)
    (hinit : exec (.init start) s = .next t) {ts : List Tok} {m : Nat} (hm : Supplies ts m)
    (hhas : StreamHas s.env (8 * start.toNat) (toksBits ts)) :
    ∃ u, nextCells m t = some ((expand ts).take m, u) ∧
      DeliversFrom s.env (8 * start.toNat + (toksBits ts).length) u := by
  have ht := deliversFrom_init hinit
  have hpending : t.smd.pending = 0#4 := by
    obtain rfl := Host.Outcome.next.inj ((initStartsStream s start).symm.trans hinit)
    rfl
  obtain ⟨u, hcells, hpos, -, -⟩ := nextCellsFollowTokens t ts m ht.ready ht.err hpending (ht.env ▸ ht.core)
    (ht.env ▸ hwf) hm (ht.env ▸ ht.pos ▸ hhas)
  obtain ⟨p, hu⟩ := ht.nextCells hwf hcells
  have hp : p = 8 * start.toNat + (toksBits ts).length := by rw [← hu.pos, hpos, ht.pos]
  exact ⟨u, hcells, hp ▸ hu⟩

/-- The offset behind the prolog, as the host adds it up (R164). -/
theorem toNat_offsetOf_add_two {n : Nat} (h : n + 2 < 2 ^ 32) : (offsetOf n + 2#32).toNat = n + 2 := by
  have hn : (offsetOf n).toNat = n := toNat_offsetOf (by omega)
  bv_omega

end Sys2Proof.Safety

open Sys2Proof Sys2Proof.Machine Sys2Proof.Safety

/-- Settles O12: READ_STATUS answers the status words of the power-on registers. -/
theorem powerOnStatus : Obligations.PowerOnStatus := by
  refine ⟨rfl, rfl, rfl, ?_⟩
  rw [exec_readStatus]
  decide

/-- Settles O45: the sealed Map is that of the record, and each primitive answers its part of the same record. -/
theorem primitiveProtocolMatchesDecodeMap : Obligations.PrimitiveProtocolMatchesDecodeMap := by
  intro s t i hwf hg hdecode hvalid
  obtain ⟨ts, hseals⟩ | ⟨kind, a, -, hfails⟩ := seals_or_fails hwf i
  · obtain ⟨hstream, hin, hempty⟩ := id hseals
    obtain rfl := Host.Outcome.next.inj ((decodeMapSealsTheMap s i ts hwf hg hstream hin hempty).symm.trans hdecode)
    obtain ⟨⟨hentry, hprolog, -, -⟩, hm, hhas, hepilog⟩ := hstream
    have hlen := hwf.1
    have hresolve := (resolveAnswersRecordOffset s i).1 hentry
    have hbase : (offsetOf (recordBase s.env i.toNat)).toNat = recordBase s.env i.toNat := toNat_offsetOf (by omega)
    obtain ⟨s3, s4, hreadX, hsizeX, hreadY, hsizeY, henv⟩ :=
      (deliversFrom_init (initStartsStream (s.put _) _)).readTwoBytes hwf (a := recordBase s.env i.toNat)
        (by rw [hbase]; omega) hprolog
    have hinit := initStartsStream s4 (offsetOf (recordBase s.env i.toNat) + 2#32)
    have hstart := toNat_offsetOf_add_two (n := recordBase s.env i.toNat) (by omega)
    obtain ⟨s6, hcells, h6⟩ := nextCells_after_init (henv ▸ hwf) hinit hm (by rwa [henv, hstart])
    rw [hstart, henv] at h6
    obtain ⟨s7, s8, hreadManX, hmanX, hreadManY, hmanY, -⟩ :=
      h6.readTwoBytes hwf (a := recordEnd s.env i.toNat ts) (by unfold recordEnd; omega) hepilog
    exact ⟨_, _, _, s3, s4, _, s6, s7, s8, hresolve, rfl, initStartsStream _ _, hreadX, hsizeX, hreadY, hsizeY, hinit,
      hcells.trans (congrArg (fun cells => some (cells, s6)) (sealed_cells hseals s.smd).symm),
      hreadManX, hmanX, hreadManY, hmanY⟩
  · obtain ⟨q, hunsealed, hexec⟩ := hfails s rfl hg
    obtain rfl := Host.Outcome.next.inj (hexec.symm.trans hdecode)
    exact absurd (hunsealed.symm.trans hvalid) (by decide)
end

section
/-! The stops that no host can bring about: a command for an SMD that does not exist (R156), and a cell code with no
counter before it (R59). -/

namespace Sys2Proof.Machine

theorem takeCellCode_without_counter {s : State} (h : ∀ n, s.smd.token ≠ .code n) (k : Nat) (c : Cell) :
    takeCellCode k c s = .fault .cellCodeWithoutCounter := by
  unfold takeCellCode
  cases htok : s.smd.token with
  | code n => exact absurd htok (h n)
  | idle | counter => rfl

end Sys2Proof.Machine

open Sys2Proof Sys2Proof.Machine

/-- Settles O7: the focus cannot move to an SMD past the last one. -/
theorem absentSmdStops : Obligations.AbsentSmdStops := by
  intro s c rest htok hhost habsent
  have hfocus : s.focus c.smdNo = none := focus_eq_none.mpr habsent
  simp only [step, htok, hhost, hfocus]

/-- Settles O30: each cell code is `takeCellCode` with its number of bits and its cell. -/
theorem bareCellCodeStops : Obligations.BareCellCodeStops := by
  intro s htok i hi
  simp only [List.mem_cons, List.not_mem_nil, or_false] at hi
  obtain rfl | rfl | rfl | rfl | rfl := hi <;>
    exact takeCellCode_without_counter htok _ _
end
